-- ==== Sys2Proof/Word.lean ====
section
/-! DEFINITION. The word types of the core: what the spec treats as bits, at the width it gives. -/

namespace Sys2Proof

/-- One word of the command or response port (30_encoding.md R100, R112). -/
abbrev Word := BitVec 32

/-- One channel value, one slot of the line, one colour component (10_state.md R38, 00_scope.md R12). -/
abbrev Byte := BitVec 8

/-- A count of microseconds as a 64-bit register holds it (00_scope.md R11, 10_state.md R22). -/
abbrev Time := BitVec 64

/-- One audio sample, two's complement (30_encoding.md R118). -/
abbrev Sample := BitVec 16

/-- One magnitude of the spectrum, an unsigned number below 2^32 (40_beat_detector.md R142 P2). -/
abbrev Magnitude := BitVec 32

end Sys2Proof
end

