-- ==== Sys2Proof/Syntax.lean ====
section
/-! DEFINITION. The sixteen host commands, one constructor per row of spec/opcode_table.json, with the operand
fields of their formats at the widths 30_encoding.md R102 to R109 gives them. -/

namespace Sys2Proof

/-- One pair of a SET_CHANNELS map as its pair word carries it (30_encoding.md R106): the fields are wider than
the legal domains on purpose (R103). -/
structure Pair where
  idx : BitVec 12
  val : BitVec 12
deriving DecidableEq, Repr

/-- The commands (30_encoding.md R111). -/
inductive Instr where
  /-- SET_CHANNEL, format CV (R103, R260). -/
  | setChannel (idx val : BitVec 12)
  /-- SET_CHANNELS, format M (R106, R261). -/
  | setChannels (pairs : List Pair)
  /-- GET_CHANNEL, format C (R104, R262). -/
  | getChannel (idx : BitVec 12)
  /-- BLACKOUT, format Z (R102, R263). -/
  | blackout
  /-- SET_ALL, format V (R105, R264). -/
  | setAll (val : BitVec 12)
  /-- SET_PRESET, format P (R107, R180). -/
  | setPreset (id : BitVec 8)
  /-- SET_AUDIO_REACTIVE, format B (R108, R185). -/
  | setAudioReactive (en : Bool)
  /-- SET_ADDRESS, format FA (R108, R186). -/
  | setAddress (fix : BitVec 4) (addr : BitVec 12)
  /-- GET_STATUS, format Z (R102, R188). -/
  | getStatus
  /-- SET_BPM, format W (R108, R187). -/
  | setBpm (bpm : BitVec 16)
  /-- BEAT, format T (R109, R190). -/
  | beat (ts : Time)
  /-- TRIGGER, format T (R109, R191). -/
  | trigger (ts : Time)
  /-- UPDATE, format T (R109, R210). -/
  | update (now : Time)
  /-- GET_VOLUME, format Z (R102, R155). -/
  | getVolume
  /-- START, format L (R108, R303). -/
  | start (mask : BitVec 3)
  /-- STOP, format L (R108, R306). -/
  | stop (mask : BitVec 3)
deriving DecidableEq, Repr

end Sys2Proof
end

