-- ==== Sys2Proof/WellFormed.lean ====
section
/-! DEFINITION. Which terms of `Instr` a command word sequence can carry. -/

namespace Sys2Proof

/-- The one constraint the field widths do not already express: COUNT has twelve bits, so a map has at most 4095
pairs (30_encoding.md R106). -/
def Instr.wellFormed : Instr → Bool
  | .setChannels pairs => pairs.length ≤ 4095
  | .setChannel _ _ => true
  | .getChannel _ => true
  | .blackout => true
  | .setAll _ => true
  | .setPreset _ => true
  | .setAudioReactive _ => true
  | .setAddress _ _ => true
  | .getStatus => true
  | .setBpm _ => true
  | .beat _ => true
  | .trigger _ => true
  | .update _ => true
  | .getVolume => true
  | .start _ => true
  | .stop _ => true

end Sys2Proof
end

