-- ==== Sys2Proof/Decode.lean ====
section
/-! DEFINITION. The decoder of command words and, after it, the encoder (30_encoding.md R100 to R111, R120). -/

namespace Sys2Proof

/-! ## Bit fields and word order -/

/-- `w[hi:lo]` as a vector of its own width (00_scope.md R9). -/
def field (hi lo : Nat) (w : Word) : BitVec (hi - lo + 1) := w.extractLsb hi lo

/-- The low 24 bits of a command word, the error information of a refused word (30_encoding.md R114). -/
def info24 (w : Word) : BitVec 24 := w.extractLsb' 0 24

/-- A 64-bit timestamp from its two operand words, low word first (20_memory.md R74, 30_encoding.md R109). -/
def joinTime (lo hi : Word) : Time := hi ++ lo

/-- T[31:0] (20_memory.md R74). -/
def timeLo (t : Time) : Word := t.extractLsb' 0 32

/-- T[63:32] (20_memory.md R74). -/
def timeHi (t : Time) : Word := t.extractLsb' 32 32

/-! ## The opcode map -/

/-- The sixteen assigned values of OP, as names (30_encoding.md R111). -/
inductive Opcode where
  | setChannel | setChannels | getChannel | blackout | setAll
  | setPreset | setAudioReactive | setAddress | getStatus | setBpm | beat | trigger | update
  | getVolume | start | stop
deriving DecidableEq, Repr

/-- Every row of the map, in its order. -/
def allOpcodes : List Opcode :=
  [.setChannel, .setChannels, .getChannel, .blackout, .setAll, .setPreset, .setAudioReactive, .setAddress,
   .getStatus, .setBpm, .beat, .trigger, .update, .getVolume, .start, .stop]

/-- Column OP of the map (30_encoding.md R111). -/
def opByte : Opcode → BitVec 8
  | .setChannel => 0x10 | .setChannels => 0x11 | .getChannel => 0x12 | .blackout => 0x13 | .setAll => 0x14
  | .setPreset => 0x20 | .setAudioReactive => 0x21 | .setAddress => 0x22 | .getStatus => 0x23 | .setBpm => 0x24
  | .beat => 0x25 | .trigger => 0x26 | .update => 0x27
  | .getVolume => 0x30 | .start => 0x40 | .stop => 0x41

/-- Column mask of the map: OP and every zero field (30_encoding.md R111). -/
def headerMask : Opcode → Word
  | .setChannel => 0xFF000000
  | .setChannels => 0xFF000FFF
  | .getChannel => 0xFF000FFF
  | .blackout => 0xFFFFFFFF
  | .setAll => 0xFFFFF000
  | .setPreset => 0xFFFFFF00
  | .setAudioReactive => 0xFFFFFFFE
  | .setAddress => 0xFF0FF000
  | .getStatus => 0xFFFFFFFF
  | .setBpm => 0xFFFF0000
  | .beat => 0xFFFFFFFF
  | .trigger => 0xFFFFFFFF
  | .update => 0xFFFFFFFF
  | .getVolume => 0xFFFFFFFF
  | .start => 0xFFFFFFF8
  | .stop => 0xFFFFFFF8

/-- Column match of the map: OP, and zero in every zero field (30_encoding.md R111). -/
def headerMatch (o : Opcode) : Word := opByte o ++ 0#24

/-- Whether a header word selects a row: `(CW and mask) = match` (30_encoding.md R111). -/
def selectsRow (o : Opcode) (h : Word) : Bool := h &&& headerMask o = headerMatch o

/-- The row with a given OP byte, if that value is assigned (30_encoding.md R101, R111). -/
def opcodeOf? (b : BitVec 8) : Option Opcode := allOpcodes.find? fun o => opByte o == b

/-! ## The decoder -/

/-- Why a sequence of words is no command. The first three are the illegal encodings of 30_encoding.md R120 and
carry the offending word's low 24 bits; the others say that the words are not one whole command, which the command
port never hands to the decoder (10_state.md R47). -/
inductive DecodeError where
  /-- OP is not one of the sixteen values of R111. -/
  | unassignedOpcode (info : BitVec 24)
  /-- A header of a defined opcode with a non-zero zero field. -/
  | nonzeroZeroField (info : BitVec 24)
  /-- A pair word of SET_CHANNELS with PW[31:24] not 0. -/
  | nonzeroPairField (info : BitVec 24)
  /-- No word at all. -/
  | noWord
  /-- Fewer operand words than the header asks for (R110). -/
  | missingWords
  /-- More operand words than the header asks for (R110). -/
  | extraWords
deriving DecidableEq, Repr

/-- The header's opcode, or why it is illegal (30_encoding.md R101, R111, R120, 60_exceptions.md R332 (1)). -/
def decodeHeader (h : Word) : Except DecodeError Opcode :=
  match opcodeOf? (field 31 24 h) with
  | none => .error (.unassignedOpcode (info24 h))
  | some o => if selectsRow o h then .ok o else .error (.nonzeroZeroField (info24 h))

/-- The number of operand words of a command with this header and opcode (30_encoding.md R110). -/
def operandCount (o : Opcode) (h : Word) : Nat :=
  match o with
  | .setChannels => (field 23 12 h).toNat
  | .beat => 2 | .trigger => 2 | .update => 2
  | .setChannel => 0 | .getChannel => 0 | .blackout => 0 | .setAll => 0
  | .setPreset => 0 | .setAudioReactive => 0 | .setAddress => 0 | .getStatus => 0 | .setBpm => 0
  | .getVolume => 0 | .start => 0 | .stop => 0

/-- The number of operand words the core expects after a header word: none after an illegal one
(30_encoding.md R110). -/
def operandWords (h : Word) : Nat :=
  match decodeHeader h with
  | .ok o => operandCount o h
  | .error _ => 0

/-- A pair word's two fields (30_encoding.md R106). -/
def decodePair (w : Word) : Pair := { idx := field 23 12 w, val := field 11 0 w }

/-- The pairs of a map, or the first pair word in arrival order with PW[31:24] not 0
(30_encoding.md R106, R120, 60_exceptions.md R332 (2)). -/
def decodePairs (ws : List Word) : Except DecodeError (List Pair) :=
  match ws.find? fun w => field 31 24 w != 0 with
  | some w => .error (.nonzeroPairField (info24 w))
  | none => .ok (ws.map decodePair)

/-- The timestamp operand TS_LO, TS_HI (30_encoding.md R109). -/
def timestampOperand (ops : List Word) : Time := joinTime (ops.getD 0 0) (ops.getD 1 0)

/-- The operands of a command whose header is legal and whose operand words are all there
(30_encoding.md R102 to R109). -/
def decodeOperands (o : Opcode) (h : Word) (ops : List Word) : Except DecodeError Instr :=
  match o with
  | .setChannel => .ok (.setChannel (field 23 12 h) (field 11 0 h))
  | .setChannels =>
    match decodePairs ops with
    | .ok pairs => .ok (.setChannels pairs)
    | .error e => .error e
  | .getChannel => .ok (.getChannel (field 23 12 h))
  | .blackout => .ok .blackout
  | .setAll => .ok (.setAll (field 11 0 h))
  | .setPreset => .ok (.setPreset (field 7 0 h))
  | .setAudioReactive => .ok (.setAudioReactive (h.getLsbD 0))
  | .setAddress => .ok (.setAddress (field 23 20 h) (field 11 0 h))
  | .getStatus => .ok .getStatus
  | .setBpm => .ok (.setBpm (field 15 0 h))
  | .beat => .ok (.beat (timestampOperand ops))
  | .trigger => .ok (.trigger (timestampOperand ops))
  | .update => .ok (.update (timestampOperand ops))
  | .getVolume => .ok .getVolume
  | .start => .ok (.start (field 2 0 h))
  | .stop => .ok (.stop (field 2 0 h))

/-- The decoder: total on every sequence of words. The header is judged before anything else
(60_exceptions.md R332). -/
def decode (ws : List Word) : Except DecodeError Instr :=
  match ws with
  | [] => .error .noWord
  | h :: ops =>
    match decodeHeader h with
    | .error e => .error e
    | .ok o =>
      if ops.length < operandCount o h then .error .missingWords
      else if operandCount o h < ops.length then .error .extraWords
      else decodeOperands o h ops

/-- The words of the command whose header is the low 32 bits of `v`, the first word in the lowest bits: as many
as the header asks for (30_encoding.md R110). -/
def commandWords (v : Nat) : List Word :=
  (List.range (1 + operandWords (BitVec.ofNat 32 v))).map fun k => BitVec.ofNat 32 (v >>> (32 * k))

/-- The words of the command whose lowest `nbits` bits are those of `w`, every higher bit 0. -/
def tableWords (nbits w : Nat) : List Word := commandWords (w % 2 ^ nbits)

/-- What the decoder reads from an opcode-table word (bit 0 is bit 0 of the first word). -/
def decodeTableWord (nbits w : Nat) : Option Instr :=
  match decode (tableWords nbits w) with
  | .ok i => some i
  | .error _ => none

/-! ## The encoder -/

/-- A pair word (30_encoding.md R106). -/
def encodePair (p : Pair) : Word := 0#8 ++ p.idx ++ p.val

/-- Format T: the header and the timestamp, low word first (30_encoding.md R109). -/
def encodeTimed (o : Opcode) (ts : Time) : List Word := [headerMatch o, timeLo ts, timeHi ts]

/-- The words of a command (30_encoding.md R102 to R111). -/
def encode : Instr → List Word
  | .setChannel idx val => [opByte .setChannel ++ idx ++ val]
  | .setChannels pairs =>
    (opByte .setChannels ++ BitVec.ofNat 12 pairs.length ++ 0#12 : Word) :: pairs.map encodePair
  | .getChannel idx => [opByte .getChannel ++ idx ++ 0#12]
  | .blackout => [headerMatch .blackout]
  | .setAll val => [opByte .setAll ++ 0#12 ++ val]
  | .setPreset id => [opByte .setPreset ++ 0#16 ++ id]
  | .setAudioReactive en => [opByte .setAudioReactive ++ 0#23 ++ BitVec.ofBool en]
  | .setAddress fix addr => [opByte .setAddress ++ fix ++ 0#8 ++ addr]
  | .getStatus => [headerMatch .getStatus]
  | .setBpm bpm => [opByte .setBpm ++ 0#8 ++ bpm]
  | .beat ts => encodeTimed .beat ts
  | .trigger ts => encodeTimed .trigger ts
  | .update now => encodeTimed .update now
  | .getVolume => [headerMatch .getVolume]
  | .start mask => [opByte .start ++ 0#21 ++ mask]
  | .stop mask => [opByte .stop ++ 0#21 ++ mask]

end Sys2Proof
end

