-- ==== Sys2Proof/Config.lean ====
section
/-! DEFINITION. What is fixed for the machine (00_scope.md R7): the constants, the configuration record CFG with
its well-formedness and its default, the preset tables; the vocabulary of the environment's inputs (00_scope.md R13,
44_orchestrator.md R302); and the free values, opaque constants of which nothing can be proved. -/

namespace Sys2Proof

/-! ## The parameters marked FIXED (00_scope.md R7) -/

/-- SAMPLE_RATE, samples per second. -/
def sampleRate : Nat := 44100
/-- BAUD, bits per second on the line. -/
def baud : Nat := 250000
/-- BREAK_US. -/
def breakUs : Nat := 176
/-- MAB_US. -/
def mabUs : Nat := 16
/-- TICK_US. -/
def tickUs : Nat := 20000
/-- DEBOUNCE_US. -/
def debounceUs : Nat := 200000
/-- DECAY_NUM. -/
def decayNum : Nat := 17
/-- DECAY_DEN. -/
def decayDen : Nat := 20
/-- STROBE_HZ. -/
def strobeHz : Nat := 30
/-- Microseconds in a second (00_scope.md R11). -/
def microsPerSecond : Nat := 1000000
/-- 1.0 in Q16 (00_scope.md R12). -/
def q16One : Nat := 65536

/-! ## Fixtures and colours -/

/-- The three fixtures, f = 0, 1, 2 (42_engine_render.md R216). -/
inductive Fixture where
  | panelA | panelB | bar
deriving DecidableEq, Repr

/-- WIDTH = (3, 3, 14) (10_state.md R51, 42_engine_render.md R216). -/
def Fixture.width : Fixture → Nat
  | .panelA => 3
  | .panelB => 3
  | .bar => 14

/-- One value for each fixture. -/
structure PerFixture (α : Type) where
  panelA : α
  panelB : α
  bar : α
deriving DecidableEq, Repr

/-- A colour, three components of 8 bits (00_scope.md R12, 10_state.md R30). -/
structure Color where
  r : Byte
  g : Byte
  b : Byte
deriving DecidableEq, Repr

/-! ## Presets -/

/-- The modulation kinds in their order 0 to 9 (42_engine_render.md R251). -/
inductive Kind where
  | blackout | pulseDecay | sineBreath | rainbowHue | strobe | glitch
  | alternating | cyclicPalette | twoToneFlash | crossfade
deriving DecidableEq, Repr

/-- What a processed beat does to the base colours (41_engine_control.md R194). -/
inductive OnBeat where
  | keep | randomize | rotate
deriving DecidableEq, Repr

/-- A preset descriptor (42_engine_render.md R250). -/
structure Descriptor where
  name : String
  kind : Kind
  base : PerFixture Color
  divider : Nat := 1
  onBeat : OnBeat := .keep
  periodUs : Nat := 0
  pairs : List (Color × Color) := []
  alarm : Bool := false
  flashHz : Nat := 0
deriving DecidableEq, Repr

/-- The range of `period_us` of each kind (42_engine_render.md R222, R229, R250). -/
def Descriptor.periodOk (d : Descriptor) : Bool :=
  match d.kind with
  | .rainbowHue => 10000000 ≤ d.periodUs && d.periodUs ≤ 32000000
  | .crossfade => 1 ≤ d.periodUs && d.periodUs < 2 ^ 32
  | .blackout => d.periodUs == 0
  | .pulseDecay => d.periodUs == 0
  | .sineBreath => d.periodUs == 0
  | .strobe => d.periodUs == 0
  | .glitch => d.periodUs == 0
  | .alternating => d.periodUs == 0
  | .cyclicPalette => d.periodUs == 0
  | .twoToneFlash => d.periodUs == 0

/-- The length of `pairs` of each kind (42_engine_render.md R227, R228, R250). -/
def Descriptor.pairsOk (d : Descriptor) : Bool :=
  match d.kind with
  | .cyclicPalette => d.pairs.length == 4
  | .twoToneFlash => d.pairs.length == 2
  | .blackout => d.pairs.isEmpty
  | .pulseDecay => d.pairs.isEmpty
  | .sineBreath => d.pairs.isEmpty
  | .rainbowHue => d.pairs.isEmpty
  | .strobe => d.pairs.isEmpty
  | .glitch => d.pairs.isEmpty
  | .alternating => d.pairs.isEmpty
  | .crossfade => d.pairs.isEmpty

/-- `flash_hz` is 1 to 1000 where it is read, in the alarm variant (42_engine_render.md R228; the default entry
`twotone` of R252 has alarm 0 and flash_hz 0. DEDUCED, safe: log 12). -/
def Descriptor.flashOk (d : Descriptor) : Bool :=
  !(d.kind == .twoToneFlash && d.alarm) || (1 ≤ d.flashHz && d.flashHz ≤ 1000)

/-- An entry meets the length and range conditions of its kind (42_engine_render.md R250). -/
def Descriptor.wf (d : Descriptor) : Bool :=
  1 ≤ d.divider && d.divider ≤ 255 && d.periodOk && d.pairsOk && d.flashOk

/-! ## The configuration record (00_scope.md R7, rows RANGE and OPEN) -/

/-- DET_METHOD. -/
inductive DetMethod where
  | flux | energy
deriving DecidableEq, Repr

/-- THRESH_STAT. -/
inductive ThreshStat where
  | median | mean
deriving DecidableEq, Repr

/-- BREAK_MODE. -/
inductive BreakMode where
  | trueBreak | baudDrop
deriving DecidableEq, Repr

/-- CFG (00_scope.md R7), less its two numerics functions, which are `Config.freeMagnitude` and `Config.freeSine`
below. -/
structure Cfg where
  /-- FRAME_LEN -/
  frameLen : Nat
  /-- DET_METHOD -/
  detMethod : DetMethod
  /-- BAND_LO_HZ -/
  bandLoHz : Nat
  /-- BAND_HI_HZ -/
  bandHiHz : Nat
  /-- HIST_LEN -/
  histLen : Nat
  /-- HIST_MIN -/
  histMin : Nat
  /-- THRESH_STAT -/
  threshStat : ThreshStat
  /-- THRESH_MULT_Q8 -/
  threshMultQ8 : Nat
  /-- THRESH_FLOOR -/
  threshFloor : Nat
  /-- REFRACTORY_US -/
  refractoryUs : Nat
  /-- AUDIO_FAIL_LIMIT -/
  audioFailLimit : Nat
  /-- UNIVERSE_SIZE, written N in the rules -/
  universeSize : Nat
  /-- TX_RATE_HZ -/
  txRateHz : Nat
  /-- BREAK_MODE -/
  breakMode : BreakMode
  /-- BREAK_BAUD -/
  breakBaud : Nat
  /-- ERR_PAUSE_US -/
  errPauseUs : Nat
  /-- FALLBACK_EN -/
  fallbackEn : Bool
  /-- TICK_JITTER_US -/
  tickJitterUs : Nat
  /-- PRESET_TABLE -/
  presetTable : List Descriptor
  /-- RANDOM_PALETTE -/
  randomPalette : List Color
  /-- BPM_RESET -/
  bpmReset : BitVec 16
  /-- ADDR_RESET -/
  addrReset : PerFixture (BitVec 10)
deriving DecidableEq, Repr

/-- A fixture at base address `a` lies inside 1..N (10_state.md R36). -/
def rangeFits (n : Nat) (f : Fixture) (a : Nat) : Bool := 1 ≤ a && a + f.width - 1 ≤ n

/-- All three fixture ranges lie inside 1..N (10_state.md R36). -/
def rangesFit (n : Nat) (a : PerFixture (BitVec 10)) : Bool :=
  rangeFits n .panelA a.panelA.toNat && rangeFits n .panelB a.panelB.toNat && rangeFits n .bar a.bar.toNat

/-- The ranges and constraints of 00_scope.md R7. ERR_PAUSE_US and TICK_JITTER_US are any natural numbers there. -/
structure Cfg.Wf (c : Cfg) : Prop where
  frame_even : c.frameLen % 2 = 0
  frame_range : 2 ≤ c.frameLen ∧ c.frameLen ≤ 65536
  band : c.bandLoHz ≤ c.bandHiHz
  hist_len : 20 ≤ c.histLen ∧ c.histLen ≤ 40
  hist_min : 10 ≤ c.histMin ∧ c.histMin ≤ 20 ∧ c.histMin ≤ c.histLen
  thresh_mult : c.threshMultQ8 ≤ 65535
  thresh_floor : c.threshFloor < 2 ^ 32
  refractory : 250000 ≤ c.refractoryUs ∧ c.refractoryUs ≤ 360000
  fail_limit : 2 ≤ c.audioFailLimit
  universe_size : 20 ≤ c.universeSize ∧ c.universeSize ≤ 512
  tx_rate : 1 ≤ c.txRateHz ∧ c.txRateHz ≤ 1000
  break_baud : c.breakBaud ∣ microsPerSecond ∧ 88 ≤ 9 * microsPerSecond / c.breakBaud ∧
    8 ≤ 2 * microsPerSecond / c.breakBaud
  table_length : 1 ≤ c.presetTable.length ∧ c.presetTable.length ≤ 256
  table_entries : c.presetTable.all Descriptor.wf = true
  table_names : (c.presetTable.map (·.name)).Nodup
  table_blackout : c.presetTable.head?.map (·.kind) = some .blackout
  palette : c.randomPalette ≠ []
  bpm_reset : c.bpmReset ≠ 0
  addr_reset : rangesFit c.universeSize c.addrReset = true

/-! ## The default tables (42_engine_render.md R252, R253) -/

/-- K. -/
def black : Color := ⟨0, 0, 0⟩
/-- W. -/
def white : Color := ⟨255, 255, 255⟩
/-- R. -/
def red : Color := ⟨255, 0, 0⟩
/-- G. -/
def green : Color := ⟨0, 255, 0⟩
/-- B. -/
def blue : Color := ⟨0, 0, 255⟩
/-- Y. -/
def yellow : Color := ⟨255, 255, 0⟩
/-- M. -/
def magenta : Color := ⟨255, 0, 255⟩
/-- C. -/
def cyan : Color := ⟨0, 255, 255⟩
/-- O. -/
def orange : Color := ⟨255, 128, 0⟩

/-- The same colour on every fixture. -/
def uniform (c : Color) : PerFixture Color := ⟨c, c, c⟩

/-- The default PRESET_TABLE (42_engine_render.md R252). -/
def defaultPresets : List Descriptor :=
  [ { name := "blackout", kind := .blackout, base := uniform black },
    { name := "pulse", kind := .pulseDecay, base := uniform white },
    { name := "sine", kind := .sineBreath, base := uniform blue },
    { name := "rainbow", kind := .rainbowHue, base := uniform black, periodUs := 10000000 },
    { name := "strobe_white", kind := .strobe, base := uniform white },
    { name := "glitch", kind := .glitch, base := uniform white },
    { name := "alternate", kind := .alternating, base := ⟨red, blue, black⟩ },
    { name := "palette", kind := .cyclicPalette, base := uniform black,
      pairs := [(red, blue), (green, magenta), (yellow, cyan), (white, orange)] },
    { name := "twotone", kind := .twoToneFlash, base := uniform black,
      pairs := [(red, blue), (blue, red)] },
    { name := "alarm", kind := .twoToneFlash, base := uniform black,
      pairs := [(red, blue), (blue, red)], alarm := true, flashHz := 4 },
    { name := "crossfade", kind := .crossfade, base := ⟨red, blue, black⟩, periodUs := 8000000 },
    { name := "random", kind := .pulseDecay, base := uniform white, onBeat := .randomize },
    { name := "rotate", kind := .pulseDecay, base := ⟨red, green, blue⟩, onBeat := .rotate, divider := 2 } ]

/-- The default RANDOM_PALETTE (42_engine_render.md R253). -/
def defaultPalette : List Color := [red, green, blue, yellow, magenta, cyan, white, orange]

/-- CFG with every default of 00_scope.md R7, which is profile FLUX of R8. -/
def Cfg.default : Cfg where
  frameLen := 1024
  detMethod := .flux
  bandLoHz := 20
  bandHiHz := 200
  histLen := 40
  histMin := 20
  threshStat := .median
  threshMultQ8 := 384
  threshFloor := 1
  refractoryUs := 250000
  audioFailLimit := 3
  universeSize := 512
  txRateHz := 30
  breakMode := .trueBreak
  breakBaud := 50000
  errPauseUs := 100000
  fallbackEn := true
  tickJitterUs := 0
  presetTable := defaultPresets
  randomPalette := defaultPalette
  bpmReset := 120
  addrReset := ⟨1, 4, 7⟩

/-- The default CFG under profile ENERGY (00_scope.md R8). -/
def Cfg.energyProfile : Cfg :=
  { Cfg.default with
    detMethod := .energy, bandLoHz := 30, bandHiHz := 85, histLen := 20, histMin := 10, threshStat := .mean,
    refractoryUs := 360000 }

/-! ## The environment's vocabulary (00_scope.md R13, R14, 44_orchestrator.md R302) -/

/-- An item of the AUDIO input: a frame with its capture time, or a read failure. -/
inductive AudioItem where
  | frame (tCap : Time) (samples : List Sample)
  | fail
deriving DecidableEq, Repr

/-- One segment of LINE_TRACE: a level, the time it starts and how long it lasts, in microseconds
(10_state.md R42). -/
structure Segment where
  level : Bool
  start : Nat
  duration : Nat
deriving DecidableEq, Repr, Inhabited

/-- What the environment may have happen next: which agent takes a step, or which input arrives. A move that is
not enabled is passed over (log 1). -/
inductive Move where
  /-- ENV asserts the reset input (70_reset_and_hazards.md R360). -/
  | reset
  /-- ENV advances TIME by `d` (44_orchestrator.md R302, R308). -/
  | time (d : Nat)
  /-- HOST transfers one word to the command port (30_encoding.md R100). -/
  | word (w : Word)
  /-- The complete command in C_BUF executes (60_exceptions.md R330, last row). -/
  | host
  /-- One sample arrives at the audio port (30_encoding.md R118). -/
  | sample (x : Sample)
  /-- The audio source delivers a whole item: a frame of any length, or a read failure (R302). -/
  | audioItem (it : AudioItem)
  /-- The audio source loses the `k`-th item it holds (40_beat_detector.md R158, 70_reset_and_hazards.md R373). -/
  | audioLost (k : Nat)
  /-- CAPTURE takes its step (40_beat_detector.md R157). -/
  | capture
  /-- TICKER takes its step (44_orchestrator.md R305). -/
  | ticker
  /-- TX takes its step (43_transport.md R276). -/
  | tx
  /-- The line of a cycle whose write fails shows `b` (93_implementation_defined.md U6). -/
  | lineNoise (b : Bool)
deriving DecidableEq, Repr, Inhabited

/-! ## The free values -/

/-- What the environment lets happen at its `k`-th choice (20_memory.md R86, 60_exceptions.md R333, U7). -/
opaque Config.freeMove : Nat → Move

/-- The `k`-th value of the entropy input, before it is brought into its range (00_scope.md R13 (1), U4). -/
opaque Config.freeDraw : Nat → Nat

/-- The `k`-th answer of AUDIO_CONNECT (44_orchestrator.md R302, U9). -/
opaque Config.freeAudioConnect : Nat → Bool

/-- The `k`-th answer of SERIAL_CONNECT (44_orchestrator.md R302, U9). -/
opaque Config.freeSerialConnect : Nat → Bool

/-- The `k`-th answer of SINK_OK (44_orchestrator.md R302, U9). -/
opaque Config.freeSinkOk : Nat → Bool

/-- The level the line shows in the break (`false`) or the mark (`true`) of the cycle that asks SINK_OK for the
`k`-th time, should that cycle fail (43_transport.md R282, U6). -/
opaque Config.freeLine : Nat → Bool → Bool

/-- The segments the line shows in the cycle that asks SINK_OK for the `k`-th time, should that cycle fail
(43_transport.md R282, U6). -/
opaque Config.freeTrace : Nat → List Segment

/-- MAG's magnitude of bin `k` of a frame, where property P4 does not fix it (40_beat_detector.md R142, U5). -/
opaque Config.freeMagnitude : List Sample → Nat → Magnitude

/-- SIN of a phase, where the anchors S2 do not fix it and before it is brought into its range S1
(42_engine_render.md R214, U5). -/
opaque Config.freeSine : Nat → Int

end Sys2Proof
end

