-- ==== Sys2Proof/Machine/Numerics.lean ====
section
/-! DEFINITION. The arithmetic the operation rules share: times, fixed-point brightness, phase, the numerics
functions MAG and SIN, the hue conversion, the bass band (00_scope.md R9 to R13, 45_arithmetic_and_sequencing.md). -/

namespace Sys2Proof.Machine

/-! ## Times (00_scope.md R11, 10_state.md R22) -/

/-- A timestamp `n` microseconds after `t`, as the 64-bit register holds it. -/
def later (t : Time) (n : Nat) : Time := BitVec.ofNat 64 (t.toNat + n)

/-- `sat_sub(a, b)` of two timestamps (00_scope.md R9): the difference, 0 where it would be negative. -/
def satSub (a b : Time) : Nat := a.toNat - b.toNat

/-! ## Brightness and colour (00_scope.md R12) -/

/-- `scale(c, b) = floor(c * b / 65536)`. -/
def scale (c : Byte) (b : Nat) : Byte := BitVec.ofNat 8 (c.toNat * b / q16One)

/-- `scale3`, as the list of the three bytes. -/
def scale3 (c : Color) (b : Nat) : List Byte := [scale c.r b, scale c.g b, scale c.b b]

/-- The decay of the envelope, `floor(E_ENV * 17 / 20)` (42_engine_render.md R230). -/
def decayed (e : BitVec 17) : BitVec 17 := BitVec.ofNat 17 (e.toNat * decayNum / decayDen)

/-! ## Phase and sine (42_engine_render.md R214) -/

/-- `PH(now, P) = floor((now mod P) * 65536 / P)`, for P >= 1. -/
def phase (now : Time) (p : Nat) : Nat := now.toNat % p * 65536 / p

/-- SIN: the four anchors S2, and elsewhere any value in the range S1, the same for the same phase (S3). -/
def sine (p : Nat) : Int :=
  if p = 0 then 0
  else if p = 16384 then 32767
  else if p = 32768 then 0
  else if p = 49152 then -32767
  else max (-32767) (min 32767 (Config.freeSine p))

/-- The brightness of SINE_BREATH, `floor((425 * 32767 + 375 * s) * 65536 / (1000 * 32767))`
(42_engine_render.md R221). -/
def breathBrightness (s : Int) : Nat := ((425 * 32767 + 375 * s) * 65536 / (1000 * 32767)).toNat

/-- The mixing factor of CROSSFADE, `floor((32767 + s) * 65536 / 65534)` (42_engine_render.md R229). -/
def mixFactor (s : Int) : Nat := ((32767 + s) * 65536 / 65534).toNat

/-- One mixed component, `floor((c0 * (65536 - m) + c1 * m) / 65536)` (42_engine_render.md R229). -/
def mix (c0 c1 : Byte) (m : Nat) : Byte :=
  BitVec.ofNat 8 ((c0.toNat * (q16One - m) + c1.toNat * m) / q16One)

/-- The mixed colour of CROSSFADE (42_engine_render.md R229). -/
def mixColor (c0 c1 : Color) (m : Nat) : Color := ⟨mix c0.r c1.r m, mix c0.g c1.g m, mix c0.b c1.b m⟩

/-! ## Hue (42_engine_render.md R215) -/

/-- `HUE2RGB(h16)`, the six sectors of the colour circle. -/
def hue2rgb (h : Nat) : Color :=
  let x := h * 6
  let frac := x % 65536
  let up := 255 * frac / 65536
  let down := 255 - up
  let upB := BitVec.ofNat 8 up
  let downB := BitVec.ofNat 8 down
  match x / 65536 with
  | 0 => ⟨255, upB, 0⟩
  | 1 => ⟨downB, 255, 0⟩
  | 2 => ⟨0, 255, upB⟩
  | 3 => ⟨0, downB, 255⟩
  | 4 => ⟨upB, 0, 255⟩
  | _ => ⟨255, 0, downB⟩

/-! ## Magnitudes and the bass band (40_beat_detector.md R142, R143) -/

/-- `abs` of a sample; `abs(-32768) = 32768` (45_arithmetic_and_sequencing.md R312). -/
def sampleAbs (x : Sample) : Nat := x.toInt.natAbs

/-- NBINS of a frame of `len` samples (40_beat_detector.md R142). -/
def nBins (len : Nat) : Nat := len / 2 + 1

/-- MAG: silence gives zeros (P4), any other frame any magnitudes (P2), one per bin (P3), the same for the same
frame (P1). -/
def magnitudes (frame : List Sample) : List Magnitude :=
  (List.range (nBins frame.length)).map fun k =>
    if frame.all (· == 0) then 0 else Config.freeMagnitude frame k

/-- BAND: the bins whose centre lies in the bass band, both ends included, in ascending order
(40_beat_detector.md R143). -/
def band (c : Cfg) : List Nat :=
  (List.range (nBins c.frameLen)).filter fun k =>
    c.bandLoHz * c.frameLen ≤ k * sampleRate && k * sampleRate ≤ c.bandHiHz * c.frameLen

/-! ## The beat interval (10_state.md R37) -/

/-- `BEAT_INTERVAL_US = floor(60000000 / E_BPM)`, for E_BPM >= 1. -/
def beatIntervalUs (bpm : BitVec 16) : Nat := 60000000 / bpm.toNat

end Sys2Proof.Machine
end

