-- ==== Sys2Proof/Machine/State.lean ====
section
/-! DEFINITION. The state of the core (10_state.md), why a step can stop, and the state after reset (R54). -/

namespace Sys2Proof.Machine

/-! ## Why a step can stop -/

/-- The conditions the spec proves unreachable and gives no rule for (log 8). None is raised from a state that
`Legal` (Safety.lean) holds of, and `Legal` holds at reset; all are safe. -/
inductive Fault where
  /-- UPDATE would address a channel outside 1..N (10_state.md R36, 20_memory.md R71 exclude it). Raised by UPDATE
  and TICK. Safe. -/
  | channelOutsideBuffer
  /-- E_PRESET names no entry of PRESET_TABLE (10_state.md R29 excludes it). Raised by BEAT, TRIGGER, UPDATE, TICK
  and DELIVER. Safe. -/
  | presetOutsideTable
  /-- The active descriptor breaks the conditions of its kind (42_engine_render.md R250 excludes it). Raised by
  BEAT, TRIGGER, UPDATE, TICK and DELIVER. Safe. -/
  | descriptorIllFormed
  /-- RANDOM_PALETTE is empty under a randomizing descriptor (00_scope.md R7 excludes it). Raised by BEAT, TRIGGER,
  UPDATE, TICK and DELIVER. Safe. -/
  | paletteEmpty
  /-- E_BPM is 0, so that the beat interval is undefined (45_arithmetic_and_sequencing.md R311 excludes it). Raised
  by UPDATE and TICK. Safe. -/
  | tempoZero
  /-- T_SLOT is no index of T_SNAP (10_state.md R50 excludes it). Raised by TX in phase DATA. Safe. -/
  | slotOutsideFrame
  /-- The words in C_BUF are not the words the header asked for (10_state.md R47 excludes it). Raised by HOST.
  Safe. -/
  | portInconsistent
deriving DecidableEq, Repr

/-- What the model does not accept. -/
inductive Refusal where
  /-- An instruction without a meaning yet; raised by `exec` only. Safe. -/
  | notModelled (mnemonic : String)
  /-- ENV would advance TIME to 2^63 or beyond, which every claim excludes (10_state.md R22,
  93_implementation_defined.md U13). Raised by the move `time`. Safe. -/
  | timeBeyondPremise
deriving DecidableEq, Repr

/-! ## Vocabulary of the registers -/

/-- T_PHASE, in the order 0 to 5 (10_state.md R40). -/
inductive Phase where
  | idle | breakLow | mab | data | sleep | pause
deriving DecidableEq, Repr

/-- The agents as a log record numbers them (30_encoding.md R118, 60_exceptions.md R343). -/
inductive Agent where
  | host | capture | ticker | tx
deriving DecidableEq, Repr

/-- The result codes 0 to 6 (60_exceptions.md R320). -/
inductive ResultCode where
  | ok | validationError | unknownPreset | deviceError | transientIOError | overrunWarning | illegalCommand
deriving DecidableEq, Repr

/-- One record of LOG (10_state.md R53, 30_encoding.md R118). -/
structure LogRecord where
  code : ResultCode
  agent : Agent
  info : BitVec 16
  time : Time
deriving DecidableEq, Repr

/-- One entry of FRAMES: when its cycle started, and its bytes (43_transport.md R284). -/
structure LineFrame where
  start : Time
  bytes : List Byte
deriving DecidableEq, Repr

/-- The channel space, as (address, byte) pairs in canonical form: addresses strictly rising, no entry equal to
what an unlisted address reads as (20_memory.md R70). -/
abbrev Memory := List Host.Cell

/-! ## The units' registers -/

/-- DetectorState (10_state.md R23 to R28). -/
structure Detector where
  /-- D_VOL -/
  vol : BitVec 16
  /-- D_PREV_SPEC, one entry per bin of BAND in ascending order -/
  prevSpec : List Magnitude
  /-- D_E_PREV -/
  ePrev : BitVec 32
  /-- D_HIST, oldest first -/
  hist : List (BitVec 48)
  /-- D_LAST_BEAT -/
  lastBeat : Time
  /-- D_LB_VALID -/
  lbValid : Bool
  /-- D_FAIL_CNT -/
  failCnt : BitVec 8
deriving DecidableEq, Repr

/-- The mailbox between detector and engine (10_state.md R46). -/
structure Mailbox where
  /-- EVT_VALID -/
  valid : Bool
  /-- EVT_TS -/
  ts : Time
deriving DecidableEq, Repr

/-- LightingState (10_state.md R29 to R37). -/
structure Engine where
  /-- E_PRESET -/
  preset : BitVec 8
  /-- E_BASE -/
  base : PerFixture Color
  /-- E_ENV -/
  envelope : BitVec 17
  /-- E_TOGGLE -/
  toggle : Bool
  /-- E_ROT -/
  rot : BitVec 32
  /-- E_BEAT_COUNT -/
  beatCount : BitVec 32
  /-- E_LAST_BEAT -/
  lastBeat : Time
  /-- E_LB_VALID -/
  lbValid : Bool
  /-- E_LAST_TICK -/
  lastTick : Time
  /-- E_AUDIO_REACTIVE -/
  audioReactive : Bool
  /-- E_ADDR -/
  addr : PerFixture (BitVec 10)
  /-- E_BPM -/
  bpm : BitVec 16
deriving DecidableEq, Repr

/-- The transmit loop's registers and outputs (10_state.md R39 to R42, 43_transport.md R284). -/
structure Transmit where
  /-- T_SNAP, index 0 the start code -/
  snap : List Byte
  /-- T_PHASE -/
  phase : Phase
  /-- T_SLOT -/
  slot : BitVec 10
  /-- The bit of slot T_SLOT driven next, 11 once all are driven: the model's own field, DESIGN CHOICE, safe
  (log 7). -/
  bit : Nat
  /-- T_CYCLE_START -/
  cycleStart : Time
  /-- T_NEXT_START -/
  nextStart : Time
  /-- T_VIRTUAL -/
  virtualSink : Bool
  /-- LINE, `true` is level 1 -/
  line : Bool
  /-- LINE_TRACE -/
  lineTrace : List Segment
  /-- FRAMES -/
  frames : List LineFrame
deriving DecidableEq, Repr

/-- The orchestrator's flags and the tick time (10_state.md R43). -/
structure Loops where
  /-- RUN_CAPTURE -/
  runCapture : Bool
  /-- RUN_TICK -/
  runTick : Bool
  /-- RUN_TX -/
  runTx : Bool
  /-- STOP_CAPTURE -/
  stopCapture : Bool
  /-- STOP_TICK -/
  stopTick : Bool
  /-- STOP_TX -/
  stopTx : Bool
  /-- K_NEXT_TICK -/
  nextTick : Time
deriving DecidableEq, Repr

/-- The command port (10_state.md R47). -/
structure Port where
  /-- C_BUF -/
  cBuf : List Word
  /-- C_NEED -/
  cNeed : BitVec 12
deriving DecidableEq, Repr

/-- The audio port's frame assembler (10_state.md R49). -/
structure Assembler where
  /-- FA_BUF -/
  buf : List Sample
  /-- FA_CNT -/
  cnt : Nat
  /-- FA_TCAP -/
  tcap : Time
deriving DecidableEq, Repr

/-- The environment as plain data: the model's own record, not the spec's (log 1, log 2, log 13). Each list holds
what the environment does next; when it is used up the free values of Config take over, indexed by the count. -/
structure Environment where
  /-- The moves to come. -/
  moves : List Move
  /-- How many moves were made. -/
  movesMade : Nat
  /-- The values of the entropy input to come. -/
  draws : List Nat
  /-- How many draws were made. -/
  drawsMade : Nat
  /-- The answers of AUDIO_CONNECT to come. -/
  audioConnects : List Bool
  /-- How often AUDIO_CONNECT was asked. -/
  audioAsked : Nat
  /-- The answers of SERIAL_CONNECT to come. -/
  serialConnects : List Bool
  /-- How often SERIAL_CONNECT was asked. -/
  serialAsked : Nat
  /-- The answers of SINK_OK to come. -/
  sinkOks : List Bool
  /-- How often SINK_OK was asked. -/
  sinkAsked : Nat
  /-- The items the audio source holds (60_exceptions.md R330, first row). -/
  audio : List AudioItem
deriving DecidableEq, Repr

/-! ## The state -/

/-- Everything the spec gives the machine, by unit, and the model's environment record. -/
structure State where
  /-- CFG, read only (log 3) -/
  cfg : Cfg
  /-- the environment, the model's own -/
  env : Environment
  /-- TIME -/
  time : Time
  /-- D_ registers -/
  det : Detector
  /-- EVT_VALID, EVT_TS -/
  mbox : Mailbox
  /-- E_ registers -/
  eng : Engine
  /-- CH -/
  ch : Memory
  /-- T_ registers, LINE, LINE_TRACE, FRAMES -/
  tx : Transmit
  /-- RUN_, STOP_ flags, K_NEXT_TICK -/
  loops : Loops
  /-- C_BUF, C_NEED -/
  port : Port
  /-- FA_BUF, FA_CNT, FA_TCAP -/
  fa : Assembler
  /-- LOG -/
  log : List LogRecord
  /-- RESP -/
  resp : List Word
deriving DecidableEq, Repr

/-! ## Reset (10_state.md R54, 70_reset_and_hazards.md R360) -/

/-- The environment before anything happened. -/
def Environment.initial : Environment where
  moves := []
  movesMade := 0
  draws := []
  drawsMade := 0
  audioConnects := []
  audioAsked := 0
  serialConnects := []
  serialAsked := 0
  sinkOks := []
  sinkAsked := 0
  audio := []

/-- The base colours of entry 0 of the table (10_state.md R30). -/
def resetBase (c : Cfg) : PerFixture Color :=
  match c.presetTable with
  | [] => uniform black
  | d :: _ => d.base

/-- Every register at its value after reset, for a configuration and an environment, which are not state and stay
(70_reset_and_hazards.md R360). -/
def resetWith (c : Cfg) (env : Environment) : State where
  cfg := c
  env := env
  time := 0
  det :=
    { vol := 0, prevSpec := List.replicate (band c).length 0, ePrev := 0, hist := [], lastBeat := 0,
      lbValid := false, failCnt := 0 }
  mbox := { valid := false, ts := 0 }
  eng :=
    { preset := 0, base := resetBase c, envelope := 65536, toggle := false, rot := 0, beatCount := 0,
      lastBeat := 0, lbValid := false, lastTick := 0, audioReactive := true, addr := c.addrReset,
      bpm := c.bpmReset }
  ch := []
  tx :=
    { snap := List.replicate (c.universeSize + 1) 0, phase := .idle, slot := 0, bit := 0, cycleStart := 0,
      nextStart := 0, virtualSink := false, line := true, lineTrace := [], frames := [] }
  loops :=
    { runCapture := false, runTick := false, runTx := false, stopCapture := false, stopTick := false,
      stopTx := false, nextTick := 0 }
  port := { cBuf := [], cNeed := 0 }
  fa := { buf := [], cnt := 0, tcap := 0 }
  log := []
  resp := []

/-- The machine right after reset, under the default configuration (10_state.md R54, 00_scope.md R7). -/
def State.reset : State := resetWith Cfg.default Environment.initial

end Sys2Proof.Machine
end

