-- ==== Sys2Proof/Machine/Flags.lean ====
section
/-! DEFINITION. The status flags (10_state.md R44). The core has no condition codes: no operation sets a flag as a
side effect of arithmetic. What is computed from flags is the run bits a response returns and the life-cycle state of
a loop. -/

namespace Sys2Proof.Machine

/-- DATA[2:0] of START and STOP: (RUN_TX, RUN_TICK, RUN_CAPTURE) as bits 2, 1, 0 (30_encoding.md R113). -/
def runBits (l : Loops) : BitVec 24 :=
  0#21 ++ BitVec.ofBool l.runTx ++ BitVec.ofBool l.runTick ++ BitVec.ofBool l.runCapture

/-- The states of a loop's life cycle (44_orchestrator.md R307). -/
inductive LoopState where
  | stopped | running | stopping
deriving DecidableEq, Repr

/-- A loop's state, read from its RUN and STOP flags; RUN = 0 with STOP = 1 is none of them
(44_orchestrator.md R307). -/
def loopState? (run stop : Bool) : Option LoopState :=
  match run, stop with
  | false, false => some .stopped
  | true, false => some .running
  | true, true => some .stopping
  | false, true => none

/-- RUN, RUNNING or not, and a STOP request only on a loop that runs (44_orchestrator.md R307). -/
def flagsOk (l : Loops) : Bool :=
  (loopState? l.runCapture l.stopCapture).isSome && (loopState? l.runTick l.stopTick).isSome &&
    (loopState? l.runTx l.stopTx).isSome

/-- DATA of BEAT, TRIGGER and UPDATE: whether a beat was processed (30_encoding.md R113). -/
def processedBit (b : Bool) : BitVec 24 := if b then 1 else 0

end Sys2Proof.Machine
end

