-- ==== Sys2Proof/Machine/Operands.lean ====
section
/-! DEFINITION. The operand forms of the commands and their domains (30_encoding.md R103 to R109, R121,
20_memory.md R71, R75). -/

namespace Sys2Proof.Machine

/-! ## Channels and values -/

/-- The channel an index names, if it lies in `[1, N]` (20_memory.md R71, R75). -/
def channelIndex? (n : Nat) (idx : BitVec 12) : Option Nat :=
  if 1 ≤ idx.toNat && idx.toNat ≤ n then some idx.toNat else none

/-- The byte a VAL field names, if `sext_12(VAL)` lies in `[0, 255]` (30_encoding.md R103, 20_memory.md R75). -/
def byteValue? (val : BitVec 12) : Option Byte :=
  if 0 ≤ val.toInt && val.toInt ≤ 255 then some (BitVec.ofInt 8 val.toInt) else none

/-- The cell a pair of a map writes, if both its index and its value are in range (43_transport.md R261). -/
def pairCell? (n : Nat) (p : Pair) : Option Host.Cell :=
  match channelIndex? n p.idx, byteValue? p.val with
  | some i, some v => some (i, v)
  | _, _ => none

/-- The first pair, in arrival order, that is out of range (43_transport.md R261). -/
def firstBadPair? (n : Nat) (pairs : List Pair) : Option Pair :=
  pairs.find? fun p => (pairCell? n p).isNone

/-- The cells a map writes, in order (43_transport.md R261). -/
def pairCells (n : Nat) (pairs : List Pair) : List Host.Cell := pairs.filterMap (pairCell? n)

/-! ## Error information: the low 24 bits of the offending word (30_encoding.md R114) -/

/-- Of a word with an index and a value field: formats CV and C (VAL zero) and a pair word. -/
def infoIndexValue (idx val : BitVec 12) : BitVec 24 := idx ++ val

/-- Of a SET_ALL header. -/
def infoValue (val : BitVec 12) : BitVec 24 := 0#12 ++ val

/-- Of a SET_PRESET header. -/
def infoPreset (id : BitVec 8) : BitVec 24 := 0#16 ++ id

/-- Of a SET_ADDRESS header. -/
def infoAddress (fix : BitVec 4) (addr : BitVec 12) : BitVec 24 := fix ++ 0#8 ++ addr

/-- Of a SET_BPM header. -/
def infoBpm (bpm : BitVec 16) : BitVec 24 := 0#8 ++ bpm

/-! ## Fixtures -/

/-- The fixture a FIX field names, if it is 0, 1 or 2 (41_engine_control.md R186). -/
def fixtureOf? (fix : BitVec 4) : Option Fixture :=
  if fix = 0 then some .panelA else if fix = 1 then some .panelB else if fix = 2 then some .bar else none

/-- The component of a fixture. -/
def PerFixture.get {α : Type} (p : PerFixture α) : Fixture → α
  | .panelA => p.panelA
  | .panelB => p.panelB
  | .bar => p.bar

/-- The same with one component replaced. -/
def PerFixture.set {α : Type} (p : PerFixture α) (f : Fixture) (x : α) : PerFixture α :=
  match f with
  | .panelA => { p with panelA := x }
  | .panelB => { p with panelB := x }
  | .bar => { p with bar := x }

/-! ## Loop masks (30_encoding.md R108, format L) -/

/-- MASK bit 0. -/
def namesCapture (mask : BitVec 3) : Bool := mask.getLsbD 0
/-- MASK bit 1. -/
def namesTick (mask : BitVec 3) : Bool := mask.getLsbD 1
/-- MASK bit 2. -/
def namesTx (mask : BitVec 3) : Bool := mask.getLsbD 2

end Sys2Proof.Machine
end

