-- ==== Sys2Proof/Machine/Ops.lean ====
section
/-! DEFINITION. The shared operations: the channel space, the response port, raising an error, the log, the
environment's inputs, the command port and the fetch of a command. -/

namespace Sys2Proof.Machine

/-! ## The channel space (20_memory.md R70, R71) -/

/-- What a cell nothing has written reads as: the reset value of CH (10_state.md R38). -/
def unlistedByte : Byte := 0

/-- MemRead(i, 1) of a cell list. -/
def Memory.read : Memory → Nat → Byte
  | [], _ => unlistedByte
  | (b, v) :: rest, a => if a = b then v else Memory.read rest a

/-- MemWrite(i, 1, v) on a cell list in canonical form. -/
def Memory.write : Memory → Nat → Byte → Memory
  | [], a, v => if v = unlistedByte then [] else [(a, v)]
  | (b, w) :: rest, a, v =>
    if a < b then (if v = unlistedByte then (b, w) :: rest else (a, v) :: (b, w) :: rest)
    else if a = b then (if v = unlistedByte then rest else (a, v) :: rest)
    else (b, w) :: Memory.write rest a v

/-- Several writes, in order. -/
def Memory.writeAll (m : Memory) (cells : List Host.Cell) : Memory :=
  cells.foldl (fun acc c => Memory.write acc c.1 c.2) m

/-- The writes of one value to every cell 1..N (43_transport.md R263, R264). -/
def Memory.fill (m : Memory) (n : Nat) (v : Byte) : Memory :=
  m.filter (fun c => c.1 < 1) ++
    (if v = unlistedByte then [] else (List.range n).map fun i => (i + 1, v)) ++
    m.filter (fun c => n < c.1)

/-- The canonical form: addresses strictly rising, no entry equal to what an unlisted address reads as. -/
def Memory.wf : Memory → Bool
  | [] => true
  | (a, v) :: rest => v != unlistedByte && rest.all (fun c => a < c.1) && Memory.wf rest

/-- Every listed address is a cell, 1..N (20_memory.md R70). -/
def Memory.within (n : Nat) (m : Memory) : Bool := m.all fun c => 1 ≤ c.1 && c.1 ≤ n

/-- N. -/
def State.n (s : State) : Nat := s.cfg.universeSize

/-- `CH[i]` (00_scope.md R10). -/
def State.channel (s : State) (i : Nat) : Byte := Memory.read s.ch i

/-- `CH[i] <- v` for each cell of a list, in order (00_scope.md R10). -/
def State.writeChannels (s : State) (cells : List Host.Cell) : State :=
  { s with ch := Memory.writeAll s.ch cells }

/-- `CH[i] <- v` for every i in 1..N. -/
def State.fillChannels (s : State) (v : Byte) : State := { s with ch := Memory.fill s.ch s.n v }

/-! ## Responses and errors (30_encoding.md R112, 60_exceptions.md R320, R334) -/

/-- CODE of a result (60_exceptions.md R320). -/
def codeByte : ResultCode → BitVec 8
  | .ok => 0
  | .validationError => 1
  | .unknownPreset => 2
  | .deviceError => 3
  | .transientIOError => 4
  | .overrunWarning => 5
  | .illegalCommand => 6

/-- A response word: CODE in bits 31:24, DATA in bits 23:0 (30_encoding.md R112). -/
def responseWord (c : ResultCode) (data : BitVec 24) : Word := codeByte c ++ data

/-- The end of a command: its response words are appended to RESP and the port is ready for the next header
(30_encoding.md R100, R112, 60_exceptions.md R334). -/
def State.respond (s : State) (ws : List Word) : State :=
  { s with resp := s.resp ++ ws, port := { cBuf := [], cNeed := 0 } }

/-- `respond OK` with one word (30_encoding.md R113). -/
def State.respondOk (s : State) (data : BitVec 24) : State := s.respond [responseWord .ok data]

/-- TAKING AN ERROR, the core's only exception (60_exceptions.md R334): nothing is saved, control goes nowhere;
C_BUF is emptied, one response word with the code and the information is appended. There is no return from it
(R336). -/
def State.refuse (s : State) (c : ResultCode) (info : BitVec 24) : State := s.respond [responseWord c info]

/-- `raise <Kind>(info)` of a command (00_scope.md R10). -/
def raise (c : ResultCode) (info : BitVec 24) (s : State) : Host.Outcome State Fault Refusal :=
  .next (s.refuse c info)

/-! ## The log (30_encoding.md R118, 60_exceptions.md R325) -/

/-- The AGENT numbers of a log record. -/
def agentByte : Agent → BitVec 8
  | .host => 0
  | .capture => 1
  | .ticker => 2
  | .tx => 3

/-- `log(<Kind>, agent, info)`: one record with the TIME of the step (00_scope.md R10, 10_state.md R53). -/
def State.appendLog (s : State) (c : ResultCode) (a : Agent) (info : BitVec 16) : State :=
  { s with log := s.log ++ [{ code := c, agent := a, info := info, time := s.time }] }

/-- The three words the log port shows for a record (30_encoding.md R118). -/
def logWords (r : LogRecord) : List Word := [codeByte r.code ++ agentByte r.agent ++ r.info, timeLo r.time, timeHi r.time]

/-! ## The environment's inputs (00_scope.md R13, 44_orchestrator.md R302) -/

/-- The environment's next move: from its list, and from a free value once the list is used up (log 1). -/
def State.nextMove (s : State) : Move := s.env.moves.headD (Config.freeMove s.env.movesMade)

/-- The state in which that move is made: it is no longer to come. -/
def State.takeMove (s : State) : State :=
  { s with env := { s.env with moves := s.env.moves.tail, movesMade := s.env.movesMade + 1 } }

/-- `draw(n)`: an integer in [0, n), for n >= 1, chosen by the entropy input (00_scope.md R10, R13). -/
def State.draw (s : State) (n : Nat) : Nat := s.env.draws.headD (Config.freeDraw s.env.drawsMade) % n

/-- The state after a draw. -/
def State.drawn (s : State) : State :=
  { s with env := { s.env with draws := s.env.draws.tail, drawsMade := s.env.drawsMade + 1 } }

/-- `AUDIO_CONNECT()`. -/
def State.audioConnect (s : State) : Bool :=
  s.env.audioConnects.headD (Config.freeAudioConnect s.env.audioAsked)

/-- The state after AUDIO_CONNECT was asked. -/
def State.askedAudio (s : State) : State :=
  { s with env := { s.env with audioConnects := s.env.audioConnects.tail, audioAsked := s.env.audioAsked + 1 } }

/-- `SERIAL_CONNECT()`. -/
def State.serialConnect (s : State) : Bool :=
  s.env.serialConnects.headD (Config.freeSerialConnect s.env.serialAsked)

/-- The state after SERIAL_CONNECT was asked. -/
def State.askedSerial (s : State) : State :=
  { s with env := { s.env with serialConnects := s.env.serialConnects.tail, serialAsked := s.env.serialAsked + 1 } }

/-- `SINK_OK()`: the answer the current cycle will get (43_transport.md R282). -/
def State.sinkOk (s : State) : Bool := s.env.sinkOks.headD (Config.freeSinkOk s.env.sinkAsked)

/-- The state after SINK_OK was asked. -/
def State.askedSink (s : State) : State :=
  { s with env := { s.env with sinkOks := s.env.sinkOks.tail, sinkAsked := s.env.sinkAsked + 1 } }

/-! ## The command port (30_encoding.md R100, R110, 10_state.md R47) -/

/-- The port holds a complete command that has not executed yet. -/
def State.commandReady (s : State) : Bool := !s.port.cBuf.isEmpty && s.port.cNeed == 0

/-- One word arrives. As a header it decides how many words are still expected; as an operand it is one of them;
while a complete command waits the port takes no word (30_encoding.md R100). -/
def State.receiveWord (s : State) (w : Word) : State :=
  if s.port.cBuf.isEmpty then
    { s with port := { cBuf := [w], cNeed := BitVec.ofNat 12 (operandWords w) } }
  else if s.port.cNeed == 0 then s
  else { s with port := { cBuf := s.port.cBuf ++ [w], cNeed := s.port.cNeed - 1 } }

/-- The fetch: the words of the complete command. -/
def State.fetch (s : State) : List Word := s.port.cBuf

/-- What the HOST agent's step does with words that are no command: an illegal encoding raises IllegalCommand with
the offending word's low 24 bits (30_encoding.md R114, R120); words that do not fit their header never stand in C_BUF
(log 8). -/
def raiseUndecoded (e : DecodeError) (s : State) : Host.Outcome State Fault Refusal :=
  match e with
  | .unassignedOpcode info => raise .illegalCommand info s
  | .nonzeroZeroField info => raise .illegalCommand info s
  | .nonzeroPairField info => raise .illegalCommand info s
  | .noWord => .fault .portInconsistent
  | .missingWords => .fault .portInconsistent
  | .extraWords => .fault .portInconsistent

end Sys2Proof.Machine
end

