-- ==== Sys2Proof/Machine/Engine.lean ====
section
/-! DEFINITION. The lighting engine's control operations: SET_PRESET, SET_AUDIO_REACTIVE, SET_ADDRESS, SET_BPM,
GET_STATUS, and the beat operations BEAT and TRIGGER (41_engine_control.md). -/

namespace Sys2Proof.Machine

/-! ## The active descriptor -/

/-- `DECAY_KINDS` (41_engine_control.md R196). -/
def decays : Kind → Bool
  | .pulseDecay => true
  | .cyclicPalette => true
  | .blackout => false
  | .sineBreath => false
  | .rainbowHue => false
  | .strobe => false
  | .glitch => false
  | .alternating => false
  | .twoToneFlash => false
  | .crossfade => false

/-- `DESC = PRESET_TABLE[E_PRESET]` (10_state.md R29), with what the configuration promises of it
(42_engine_render.md R250, 00_scope.md R7; log 8). -/
def activeDesc (s : State) : Except Fault Descriptor :=
  match s.cfg.presetTable[s.eng.preset.toNat]? with
  | none => .error .presetOutsideTable
  | some d =>
    if !d.wf then .error .descriptorIllFormed
    else if d.onBeat == .randomize && s.cfg.randomPalette.isEmpty then .error .paletteEmpty
    else .ok d

/-! ## Beats (41_engine_control.md R190 to R194) -/

/-- One colour drawn from RANDOM_PALETTE (41_engine_control.md R194). -/
def drawColor (s : State) : Color :=
  s.cfg.randomPalette.getD (s.draw s.cfg.randomPalette.length) black

/-- RANDOMIZE: a draw for each fixture, in the order f = 0, 1, 2 (41_engine_control.md R194). -/
def randomizeBase (s : State) : State :=
  let s1 := s.drawn
  let s2 := s1.drawn
  let s3 := s2.drawn
  { s3 with eng := { s3.eng with base := ⟨drawColor s, drawColor s1, drawColor s2⟩ } }

/-- ROTATE: each fixture takes the next one's colour, and E_ROT counts it (41_engine_control.md R194). -/
def rotateBase (s : State) : State :=
  { s with eng := { s.eng with
      base := ⟨s.eng.base.panelB, s.eng.base.bar, s.eng.base.panelA⟩
      rot := s.eng.rot + 1 } }

/-- The descriptor's action on the base colours (41_engine_control.md R192, R194). -/
def recolor (d : Descriptor) (s : State) : State :=
  match d.onBeat with
  | .keep => s
  | .randomize => randomizeBase s
  | .rotate => rotateBase s

/-- The visible actions of a beat, on every divider-th processed beat (41_engine_control.md R192, R193). -/
def beatActions (d : Descriptor) (s : State) : State :=
  let s1 := recolor d { s with eng := { s.eng with toggle := !s.eng.toggle } }
  if decays d.kind then { s1 with eng := { s1.eng with envelope := 65536 } } else s1

/-- BEAT_PROC(ts) (41_engine_control.md R192). -/
def beatProc (d : Descriptor) (ts : Time) (s : State) : State :=
  let s1 := { s with eng := { s.eng with
    beatCount := s.eng.beatCount + 1, lastBeat := ts, lbValid := true } }
  if s1.eng.beatCount.toNat % d.divider = 0 then beatActions d s1 else s1

/-- The debounce: a beat not more than DEBOUNCE_US after the last processed one (41_engine_control.md R190). -/
def debounced (ts : Time) (e : Engine) : Bool := e.lbValid && satSub ts e.lastBeat ≤ debounceUs

/-- The gates ON_BEAT and TRIGGER share, and the beat behind them: the state, and whether it was processed
(41_engine_control.md R190, R191). -/
def tryBeat (d : Descriptor) (ts : Time) (s : State) : Bool × State :=
  if d.kind = .blackout then (false, s)
  else if debounced ts s.eng then (false, s)
  else (true, beatProc d ts s)

/-- TRIGGER(ts) (41_engine_control.md R191). -/
def trigger (ts : Time) (s : State) : Except Fault (Bool × State) :=
  match activeDesc s with
  | .error f => .error f
  | .ok d => .ok (tryBeat d ts s)

/-- ON_BEAT(ts): TRIGGER behind the audio-reactive gate (41_engine_control.md R190). -/
def onBeat (ts : Time) (s : State) : Except Fault (Bool × State) :=
  if s.eng.audioReactive then trigger ts s else .ok (false, s)

/-- How a command that asks whether a beat was processed answers (30_encoding.md R113). -/
def answerProcessed (r : Except Fault (Bool × State)) : Host.Outcome State Fault Refusal :=
  match r with
  | .error f => .fault f
  | .ok p => .next (p.2.respondOk (processedBit p.1))

/-- BEAT (41_engine_control.md R190). -/
def execBeat (ts : Time) (s : State) : Host.Outcome State Fault Refusal := answerProcessed (onBeat ts s)

/-- TRIGGER (41_engine_control.md R191). -/
def execTrigger (ts : Time) (s : State) : Host.Outcome State Fault Refusal := answerProcessed (trigger ts s)

/-! ## Control -/

/-- SET_PRESET (41_engine_control.md R180). -/
def execSetPreset (id : BitVec 8) (s : State) : Host.Outcome State Fault Refusal :=
  match s.cfg.presetTable[id.toNat]? with
  | none => raise .unknownPreset (infoPreset id) s
  | some d =>
    .next (State.respondOk
      { s with eng := { s.eng with
          preset := id, base := d.base, envelope := 65536, toggle := false, rot := 0, beatCount := 0 } } 0)

/-- SET_AUDIO_REACTIVE (41_engine_control.md R185). -/
def execSetAudioReactive (en : Bool) (s : State) : Host.Outcome State Fault Refusal :=
  .next (State.respondOk { s with eng := { s.eng with audioReactive := en } } 0)

/-- SET_ADDRESS (41_engine_control.md R186). -/
def execSetAddress (fix : BitVec 4) (addr : BitVec 12) (s : State) : Host.Outcome State Fault Refusal :=
  match fixtureOf? fix with
  | none => raise .validationError (infoAddress fix addr) s
  | some f =>
    if rangeFits s.n f addr.toNat then
      .next (State.respondOk
        { s with eng := { s.eng with addr := PerFixture.set s.eng.addr f (addr.setWidth 10) } } 0)
    else raise .validationError (infoAddress fix addr) s

/-- SET_BPM (41_engine_control.md R187). -/
def execSetBpm (bpm : BitVec 16) (s : State) : Host.Outcome State Fault Refusal :=
  if bpm = 0 then raise .validationError (infoBpm bpm) s
  else .next (State.respondOk { s with eng := { s.eng with bpm := bpm } } 0)

/-- AGE, the last-beat age: all ones before any beat (41_engine_control.md R188). -/
def lastBeatAge (s : State) : Time :=
  if s.eng.lbValid then BitVec.ofNat 64 (satSub s.time s.eng.lastBeat) else BitVec.allOnes 64

/-- GET_STATUS (41_engine_control.md R188, 30_encoding.md R113). -/
def execGetStatus (s : State) : Host.Outcome State Fault Refusal :=
  .next (s.respond [responseWord .ok (0#8 ++ s.eng.bpm), timeLo (lastBeatAge s), timeHi (lastBeatAge s)])

end Sys2Proof.Machine
end

