-- ==== Sys2Proof/Machine/Detector.lean ====
section
/-! DEFINITION. The beat detector: PUSH_FRAME, READ_FAIL, event delivery, the capture loop, and GET_VOLUME
(40_beat_detector.md). -/

namespace Sys2Proof.Machine

/-! ## The onset signal (40_beat_detector.md R144, R145) -/

/-- The flux: the positive-only sum over BAND of the rises against the previous frame (R144). Subtraction of natural
numbers is `max(0, a - b)`. -/
def fluxSignal (c : Cfg) (m prev : List Magnitude) : Nat :=
  ((band c).zipIdx.map fun k => (m.getD k.1 0).toNat - (prev.getD k.2 0).toNat).sum

/-- The new previous-frame spectrum, over BAND (R144). -/
def bandSpectrum (c : Cfg) (m : List Magnitude) : List Magnitude := (band c).map fun k => m.getD k 0

/-- `E`: the mean bass-band magnitude, 0 for an empty band (R145). -/
def bandEnergy (c : Cfg) (m : List Magnitude) : Nat :=
  if (band c).isEmpty then 0 else ((band c).map fun k => (m.getD k 0).toNat).sum / (band c).length

/-- `max(0, E + (E - D_E_PREV))` (R145). -/
def energySignal (e ePrev : Nat) : Nat := e + e - ePrev

/-- SIGNAL(m): the signal value, and the detector with its spectrum snapshot or its previous energy replaced
(R144, R145). -/
def signal (c : Cfg) (m : List Magnitude) (d : Detector) : Nat × Detector :=
  match c.detMethod with
  | .flux => (fluxSignal c m d.prevSpec, { d with prevSpec := bandSpectrum c m })
  | .energy =>
    (energySignal (bandEnergy c m) d.ePrev.toNat, { d with ePrev := BitVec.ofNat 32 (bandEnergy c m) })

/-! ## History and threshold (40_beat_detector.md R146, R147) -/

/-- The history with a new signal appended and, above HIST_LEN, its first entry dropped (R146). -/
def pushHistory (c : Cfg) (h : List (BitVec 48)) (sig : Nat) : List (BitVec 48) :=
  let h1 := h ++ [BitVec.ofNat 48 sig]
  if c.histLen < h1.length then h1.tail else h1

/-- Insertion into an ascending list. -/
def insertAscending (x : Nat) : List Nat → List Nat
  | [] => [x]
  | y :: ys => if x ≤ y then x :: y :: ys else y :: insertAscending x ys

/-- A list sorted ascending. -/
def sortAscending (xs : List Nat) : List Nat := xs.foldr insertAscending []

/-- STAT(H) for MEDIAN (R147). -/
def median (xs : List Nat) : Nat :=
  let s := sortAscending xs
  let n := s.length
  if n % 2 = 1 then s.getD ((n - 1) / 2) 0 else (s.getD (n / 2 - 1) 0 + s.getD (n / 2) 0) / 2

/-- STAT(H) for MEAN (R147). -/
def mean (xs : List Nat) : Nat := xs.sum / xs.length

/-- STAT(H) (R147). -/
def historyStat (c : Cfg) (h : List (BitVec 48)) : Nat :=
  match c.threshStat with
  | .median => median (h.map (·.toNat))
  | .mean => mean (h.map (·.toNat))

/-- `thr = floor(STAT(H) * THRESH_MULT_Q8 / 256) + THRESH_FLOOR` (R147). -/
def threshold (c : Cfg) (h : List (BitVec 48)) : Nat :=
  historyStat c h * c.threshMultQ8 / 256 + c.threshFloor

/-! ## Firing (40_beat_detector.md R148 to R151) -/

/-- The refractory condition, strict (R148). -/
def refractoryClear (c : Cfg) (d : Detector) (tCap : Time) : Bool :=
  !d.lbValid || c.refractoryUs < satSub tCap d.lastBeat

/-- The candidate onset fires (R146, R148). -/
def fires (c : Cfg) (d : Detector) (tCap : Time) (sig : Nat) (h : List (BitVec 48)) : Bool :=
  c.histMin ≤ h.length && threshold c h < sig && refractoryClear c d tCap

/-- The peak absolute sample of a frame (R151). -/
def peakLevel (frame : List Sample) : Nat := (frame.map sampleAbs).foldl max 0

/-- `p`: the least index at which the peak is reached (R149). -/
def peakIndex (frame : List Sample) : Nat := frame.findIdx fun x => sampleAbs x == peakLevel frame

/-- The peak-aligned timestamp (R149). -/
def alignedTime (tCap : Time) (frame : List Sample) : Time :=
  later tCap (peakIndex frame * microsPerSecond / sampleRate)

/-- PUSH_FRAME of a frame of the right length whose spectrum is `m`: the detector after it, and the timestamp of the
beat it accepted, if it did (R140). -/
def processFrame (c : Cfg) (m : List Magnitude) (frame : List Sample) (tCap : Time) (d : Detector) :
    Detector × Option Time :=
  let sg := signal c m d
  let h := pushHistory c d.hist sg.1
  let d1 := { sg.2 with failCnt := 0, vol := BitVec.ofNat 16 (peakLevel frame), hist := h }
  if fires c d tCap sg.1 h then
    ({ d1 with lastBeat := alignedTime tCap frame, lbValid := true }, some (alignedTime tCap frame))
  else (d1, none)

/-- PUSH_FRAME's effect once the detector's result is known: an accepted beat goes to the mailbox (R140). -/
def storeResult (r : Detector × Option Time) (s : State) : State :=
  match r.2 with
  | none => { s with det := r.1 }
  | some ts => { s with det := r.1, mbox := { valid := true, ts := ts } }

/-- PUSH_FRAME(frame, t_cap); a frame of another length is ignored (R140, R141). -/
def pushFrame (frame : List Sample) (tCap : Time) (s : State) : State :=
  if frame.length = s.cfg.frameLen then storeResult (processFrame s.cfg (magnitudes frame) frame tCap s.det) s
  else s

/-! ## Failures (40_beat_detector.md R159, R160) -/

/-- `min(255, D_FAIL_CNT + 1)` (10_state.md R28). -/
def failCntNext (n : BitVec 8) : BitVec 8 := BitVec.ofNat 8 (min 255 (n.toNat + 1))

/-- The capture loop ends (40_beat_detector.md R157, R159). -/
def endCapture (s : State) : State :=
  { s with loops := { s.loops with runCapture := false, stopCapture := false } }

/-- READ_FAIL (R159, R160). -/
def readFail (s : State) : State :=
  let k := failCntNext s.det.failCnt
  let s1 := { s with det := { s.det with failCnt := k } }
  if s.cfg.audioFailLimit ≤ k.toNat then endCapture (s1.appendLog .deviceError .capture (k.zeroExtend 16))
  else s1.appendLog .transientIOError .capture (k.zeroExtend 16)

/-! ## The capture agent (40_beat_detector.md R156, R157) -/

/-- DELIVER: the event goes to ON_BEAT and is consumed, processed or not (R156). -/
def deliver (s : State) : Host.Outcome State Fault Refusal :=
  match onBeat s.mbox.ts s with
  | .error f => .fault f
  | .ok p => .next { p.2 with mbox := { p.2.mbox with valid := false } }

/-- The loop's own stop step: the partial frame is dropped (R157). -/
def captureStop (s : State) : State :=
  endCapture { s with fa := { s.fa with cnt := 0 } }

/-- An item may be taken: a frame is not from the future (44_orchestrator.md R302). -/
def itemDue (now : Time) : AudioItem → Bool
  | .frame tCap _ => tCap.toNat ≤ now.toNat
  | .fail => true

/-- One item of the AUDIO input: PUSH_FRAME or READ_FAIL (R157). -/
def takeItem (it : AudioItem) (s : State) : State :=
  match it with
  | .frame tCap frame => pushFrame frame tCap s
  | .fail => readFail s

/-- The next item the audio source holds, if it may be taken. -/
def nextItem? (s : State) : Option AudioItem :=
  match s.env.audio with
  | [] => none
  | it :: _ => if itemDue s.time it then some it else none

/-- The state in which the first held item is no longer held. -/
def popAudio (s : State) : State := { s with env := { s.env with audio := s.env.audio.tail } }

/-- The CAPTURE agent's step: a pending event is delivered first, then the stop flag is looked at, then the next item
is taken; without an item the agent waits (R157, 60_exceptions.md R333). -/
def captureStep (s : State) : Host.Outcome State Fault Refusal :=
  if s.mbox.valid then deliver s
  else if !s.loops.runCapture then .next s
  else if s.loops.stopCapture then .next (captureStop s)
  else
    match nextItem? s with
    | none => .next s
    | some it => .next (takeItem it (popAudio s))

/-! ## The audio port's frame assembler (10_state.md R49, 30_encoding.md R118) -/

/-- One sample arrives: the first of a frame latches TIME, the FRAME_LEN-th completes the frame, which the audio
source then holds as an item. -/
def assemble (x : Sample) (s : State) : State :=
  let buf := s.fa.buf.take s.fa.cnt ++ [x]
  let tcap := if s.fa.cnt = 0 then s.time else s.fa.tcap
  if s.cfg.frameLen ≤ s.fa.cnt + 1 then
    { s with fa := { buf := buf, cnt := 0, tcap := tcap },
             env := { s.env with audio := s.env.audio ++ [.frame tcap buf] } }
  else { s with fa := { buf := buf, cnt := s.fa.cnt + 1, tcap := tcap } }

/-! ## GET_VOLUME (40_beat_detector.md R155) -/

/-- GET_VOLUME. -/
def execGetVolume (s : State) : Host.Outcome State Fault Refusal :=
  .next (s.respondOk (s.det.vol.zeroExtend 24))

end Sys2Proof.Machine
end

