-- ==== Sys2Proof/Machine/Render.lean ====
section
/-! DEFINITION. UPDATE and what it renders: the nine modulation kinds, the blackout, the fixtures' channel layouts,
the BPM fallback and the decay of the envelope (42_engine_render.md). -/

namespace Sys2Proof.Machine

/-- A colour at a brightness in Q16 (42_engine_render.md R217). -/
abbrev Shade := Color × Nat

/-- The same shade on every fixture. -/
def sameShade (c : Color) (b : Nat) : PerFixture Shade := ⟨(c, b), (c, b), (c, b)⟩

/-- Every fixture in its base colour, at one brightness. -/
def baseShade (e : Engine) (b : Nat) : PerFixture Shade :=
  ⟨(e.base.panelA, b), (e.base.panelB, b), (e.base.bar, b)⟩

/-- The two colours of a pair: PANEL_A and the BAR show the first, PANEL_B the second
(42_engine_render.md R227, R228). -/
def pairShade (p : Color × Color) (b : Nat) : PerFixture Shade := ⟨(p.1, b), (p.2, b), (p.1, b)⟩

/-- Full brightness while `on`, else none. -/
def onOff (on : Bool) : Nat := if on then q16One else 0

/-- `floor(now * hz / 1000000) mod 2 = 0` (42_engine_render.md R223, R228). -/
def flashOn (now : Time) (hz : Nat) : Bool := now.toNat * hz / microsPerSecond % 2 == 0

/-! ## The nine kinds -/

/-- PULSE_DECAY (42_engine_render.md R220). -/
def lookPulseDecay (e : Engine) : PerFixture Shade := baseShade e e.envelope.toNat

/-- SINE_BREATH: the period is sixteen beat intervals (42_engine_render.md R221). -/
def lookSineBreath (e : Engine) (now : Time) : PerFixture Shade :=
  baseShade e (breathBrightness (sine (phase now (16 * beatIntervalUs e.bpm))))

/-- RAINBOW_HUE: HUE_OFF = (0, 6553, 13107) (42_engine_render.md R222). -/
def lookRainbowHue (d : Descriptor) (now : Time) : PerFixture Shade :=
  let h := phase now d.periodUs
  ⟨(hue2rgb (h % 65536), q16One), (hue2rgb ((h + 6553) % 65536), q16One),
    (hue2rgb ((h + 13107) % 65536), q16One)⟩

/-- STROBE (42_engine_render.md R223). -/
def lookStrobe (now : Time) : PerFixture Shade := sameShade white (onOff (flashOn now strobeHz))

/-- GLITCH, from its one draw `u` in [0, 65536) (42_engine_render.md R225). -/
def lookGlitch (e : Engine) (u : Nat) : PerFixture Shade := baseShade e (if u < 3277 then q16One else 3276)

/-- ALTERNATING: the panels take turns, the BAR is dark (42_engine_render.md R226). -/
def lookAlternating (e : Engine) : PerFixture Shade :=
  ⟨(e.base.panelA, onOff (!e.toggle)), (e.base.panelB, onOff e.toggle), (e.base.bar, 0)⟩

/-- CYCLIC_PALETTE (42_engine_render.md R227). -/
def lookCyclicPalette (d : Descriptor) (e : Engine) : PerFixture Shade :=
  pairShade (d.pairs.getD (e.beatCount.toNat / 2 % 4) (black, black)) e.envelope.toNat

/-- TWO_TONE_FLASH (42_engine_render.md R228). -/
def lookTwoToneFlash (d : Descriptor) (e : Engine) (now : Time) : PerFixture Shade :=
  pairShade (d.pairs.getD e.toggle.toNat (black, black))
    (if d.alarm then onOff (flashOn now d.flashHz) else q16One)

/-- CROSSFADE (42_engine_render.md R229). -/
def lookCrossfade (d : Descriptor) (e : Engine) (now : Time) : PerFixture Shade :=
  sameShade (mixColor e.base.panelA e.base.panelB (mixFactor (sine (phase now d.periodUs)))) q16One

/-- LOOK(now), with the draw `u` that only GLITCH reads (42_engine_render.md R217). The blackout is dark (R212). -/
def look (d : Descriptor) (e : Engine) (now : Time) (u : Nat) : PerFixture Shade :=
  match d.kind with
  | .blackout => sameShade black 0
  | .pulseDecay => lookPulseDecay e
  | .sineBreath => lookSineBreath e now
  | .rainbowHue => lookRainbowHue d now
  | .strobe => lookStrobe now
  | .glitch => lookGlitch e u
  | .alternating => lookAlternating e
  | .cyclicPalette => lookCyclicPalette d e
  | .twoToneFlash => lookTwoToneFlash d e now
  | .crossfade => lookCrossfade d e now

/-! ## From shades to channels (42_engine_render.md R216, R217) -/

/-- The three bytes of a panel. -/
def panelBytes (x : Shade) : List Byte := scale3 x.1 x.2

/-- The fourteen bytes of the BAR: three cells of one colour, the rotation/extra channel and four unused ones dark. -/
def barBytes (x : Shade) : List Byte :=
  scale3 x.1 x.2 ++ scale3 x.1 x.2 ++ scale3 x.1 x.2 ++ [0] ++ [0, 0, 0, 0]

/-- The cells of one fixture's range, from its base address (42_engine_render.md R216). -/
def fixtureCells (base : BitVec 10) (bytes : List Byte) : List Host.Cell :=
  bytes.zipIdx.map fun p => (base.toNat + p.2, p.1)

/-- The cells of a look, in fixture order, so that a later fixture wins a shared cell (20_memory.md R78). -/
def lookCells (addr : PerFixture (BitVec 10)) (l : PerFixture Shade) : List Host.Cell :=
  fixtureCells addr.panelA (panelBytes l.panelA) ++ fixtureCells addr.panelB (panelBytes l.panelB) ++
    fixtureCells addr.bar (barBytes l.bar)

/-! ## UPDATE (42_engine_render.md R210) -/

/-- The conditions the rules of UPDATE rest on, and the active descriptor (10_state.md R29, R36,
45_arithmetic_and_sequencing.md R311; log 8). -/
def updateReady (s : State) : Except Fault Descriptor :=
  match activeDesc s with
  | .error f => .error f
  | .ok d =>
    if s.eng.bpm = 0 then .error .tempoZero
    else if !rangesFit s.n s.eng.addr then .error .channelOutsideBuffer
    else .ok d

/-- A beat is due: none was ever processed, or the last one is older than the beat interval
(42_engine_render.md R211). -/
def synthesisDue (now : Time) (e : Engine) : Bool :=
  e.audioReactive && (!e.lbValid || beatIntervalUs e.bpm < satSub now e.lastBeat)

/-- The first duty: ON_BEAT(now), if a beat is due (42_engine_render.md R210, R211). -/
def synthesize (d : Descriptor) (now : Time) (s : State) : Bool × State :=
  if synthesisDue now s.eng then tryBeat d now s else (false, s)

/-- `draw(65536)` of GLITCH; no other kind draws (42_engine_render.md R225). -/
def glitchDraw (d : Descriptor) (s : State) : Nat × State :=
  if d.kind = .glitch then (s.draw 65536, s.drawn) else (0, s)

/-- The decay step, for the kinds that decay (42_engine_render.md R230). -/
def decayStep (d : Descriptor) (s : State) : State :=
  if decays d.kind then { s with eng := { s.eng with envelope := decayed s.eng.envelope } } else s

/-- The second duty: the look, its write, the decay (42_engine_render.md R210, R212, R217, R230). -/
def paint (d : Descriptor) (now : Time) (s : State) : State :=
  let g := glitchDraw d s
  decayStep d (g.2.writeChannels (lookCells s.eng.addr (look d s.eng now g.1)))

/-- `E_LAST_TICK <- now` (42_engine_render.md R210). -/
def noteTick (now : Time) (s : State) : State := { s with eng := { s.eng with lastTick := now } }

/-- UPDATE's two duties in their order; the beat's effects are in the look of the same tick
(42_engine_render.md R210). -/
def updateWith (d : Descriptor) (now : Time) (s : State) : Bool × State :=
  let b := synthesize d now s
  (b.1, paint d now (noteTick now b.2))

/-- UPDATE(now): the state, and whether it synthesized a beat that was processed (42_engine_render.md R210). -/
def updateOp (now : Time) (s : State) : Except Fault (Bool × State) :=
  match updateReady s with
  | .error f => .error f
  | .ok d => .ok (updateWith d now s)

/-- UPDATE, the command (42_engine_render.md R210, 30_encoding.md R113). -/
def execUpdate (now : Time) (s : State) : Host.Outcome State Fault Refusal := answerProcessed (updateOp now s)

end Sys2Proof.Machine
end

