-- ==== Sys2Proof/Machine/Transmit.lean ====
section
/-! DEFINITION. TX_CYCLE, the transmit loop: its phase machine, the line's timing and bits, the snapshot, pacing,
write failures and the virtual sink (43_transport.md R275 to R286, 30_encoding.md R115 to R117). -/

namespace Sys2Proof.Machine

/-! ## Line timing (30_encoding.md R115 to R117, 43_transport.md R283) -/

/-- BIT_US. -/
def bitUs : Nat := microsPerSecond / baud

/-- Bits of a slot: start, eight data, two stops (30_encoding.md R115). -/
def bitsPerSlot : Nat := 11

/-- SLOT_US. -/
def slotUs : Nat := bitsPerSlot * bitUs

/-- LOW_US (43_transport.md R276, R277, R283). -/
def lowUs (c : Cfg) : Nat :=
  match c.breakMode with
  | .trueBreak => breakUs
  | .baudDrop => 9 * (microsPerSecond / c.breakBaud)

/-- HIGH_US (43_transport.md R276, R278, R283). -/
def highUs (c : Cfg) : Nat :=
  match c.breakMode with
  | .trueBreak => mabUs
  | .baudDrop => 2 * (microsPerSecond / c.breakBaud)

/-- PERIOD_US (43_transport.md R275). -/
def periodUs (c : Cfg) : Nat := microsPerSecond / c.txRateHz

/-- The level of bit `k` of the slot that carries `d`, in time order: start, least significant bit first, stops
(30_encoding.md R115). -/
def slotBit (d : Byte) (k : Nat) : Bool := if k = 0 then false else if k ≤ 8 then d.getLsbD (k - 1) else true

/-- The eleven bits of a slot. -/
def slotBits (d : Byte) : List Bool := (List.range bitsPerSlot).map (slotBit d)

/-! ## When the next step is due (43_transport.md R276, 44_orchestrator.md R308) -/

/-- D0, the start of the data (43_transport.md R276). -/
def dataStart (s : State) : Nat := s.tx.cycleStart.toNat + lowUs s.cfg + highUs s.cfg

/-- The TIME at which the step of the current phase is due. In phase DATA it is the start of the bit driven next or,
after the last bit, the end of the slot. -/
def txDue (s : State) : Nat :=
  match s.tx.phase with
  | .idle => s.tx.nextStart.toNat
  | .sleep => s.tx.nextStart.toNat
  | .pause => s.tx.nextStart.toNat
  | .breakLow => s.tx.cycleStart.toNat + lowUs s.cfg
  | .mab => dataStart s
  | .data => dataStart s + slotUs * s.tx.slot.toNat + bitUs * s.tx.bit

/-- The phases in which the next step is TOP (43_transport.md R276). -/
def atTop : Phase → Bool
  | .idle => true
  | .sleep => true
  | .pause => true
  | .breakLow => false
  | .mab => false
  | .data => false

/-- The TX agent has an enabled step: while RUN_TX = 1, TOP from T_NEXT_START on, every other step exactly when it is
due (43_transport.md R276). -/
def txEnabled (s : State) : Bool :=
  s.loops.runTx && (if atTop s.tx.phase then txDue s ≤ s.time.toNat else s.time.toNat == txDue s)

/-! ## The steps -/

/-- What the line shows when the core drives `level` in the break (`mark = false`) or the mark (`mark = true`): that
level, but any value in a cycle whose write will fail (43_transport.md R282, U6, log 6). -/
def driven (s : State) (level mark : Bool) : Bool :=
  if s.sinkOk then level else Config.freeLine s.env.sinkAsked mark

/-- The segment a step that drives the line adds to LINE_TRACE, none in a cycle whose write will fail (log 6). It is
added as the segment starts, with the whole of its duration: DESIGN CHOICE, unsafe, the spec does not say when a
segment enters the trace (log 21). -/
def drivenTrace (s : State) (level : Bool) (duration : Nat) : List Segment :=
  if s.sinkOk then [{ level := level, start := s.time.toNat, duration := duration }] else []

/-- The loop ends at TOP (43_transport.md R276, R286). -/
def txStop (s : State) : State :=
  { s with loops := { s.loops with runTx := false, stopTx := false }, tx := { s.tx with phase := .idle } }

/-- TOP with the virtual sink: the cadence and nothing else (43_transport.md R285). -/
def txTopVirtual (s : State) : State :=
  { s with tx := { s.tx with
      cycleStart := s.time, nextStart := later s.time (periodUs s.cfg), phase := .sleep } }

/-- TOP with a real sink: the break begins (43_transport.md R276, R277), and LINE_TRACE lists all of it already
(log 21). -/
def txTopBreak (s : State) : State :=
  { s with tx := { s.tx with
      cycleStart := s.time, phase := .breakLow, line := driven s false false,
      lineTrace := s.tx.lineTrace ++ drivenTrace s false (lowUs s.cfg) } }

/-- TOP (43_transport.md R276). -/
def txTop (s : State) : State :=
  if s.loops.stopTx then txStop s else if s.tx.virtualSink then txTopVirtual s else txTopBreak s

/-- BREAK: the mark after break begins (43_transport.md R276, R278), and LINE_TRACE lists all of it already
(log 21). -/
def txBreak (s : State) : State :=
  { s with tx := { s.tx with
      phase := .mab, line := driven s true true,
      lineTrace := s.tx.lineTrace ++ drivenTrace s true (highUs s.cfg) } }

/-- The frame a snapshot taken now would send: the start code, then CH[1] to CH[N] (43_transport.md R279). -/
def snapshot (s : State) : List Byte := 0 :: (List.range s.n).map fun i => s.channel (i + 1)

/-- The atomic copy at the end of the mark (43_transport.md R276, R279). -/
def txSnapshot (s : State) : State :=
  { s with tx := { s.tx with snap := snapshot s, slot := 0, bit := 0, phase := .data } }

/-- FAIL (43_transport.md R276, R282). The cycle's segments are any (U6, log 6). -/
def txFail (s : State) : State :=
  { s.appendLog .transientIOError .tx 0 with
    tx := { s.tx with
      line := true, nextStart := later s.time s.cfg.errPauseUs, phase := .pause,
      lineTrace := s.tx.lineTrace ++ Config.freeTrace s.env.sinkAsked } }

/-- MAB: SINK_OK is asked, once per cycle (43_transport.md R276, R282). -/
def txMab (s : State) : State := if s.sinkOk then (txSnapshot s).askedSink else (txFail s).askedSink

/-- DATA, one bit of the slot being sent (43_transport.md R276, R280, 30_encoding.md R115); LINE_TRACE lists all of the
bit as it starts (log 21). -/
def txBit (d : Byte) (s : State) : State :=
  { s with tx := { s.tx with
      line := slotBit d s.tx.bit, bit := s.tx.bit + 1,
      lineTrace := s.tx.lineTrace ++
        [{ level := slotBit d s.tx.bit, start := s.time.toNat, duration := bitUs }] } }

/-- DATA, the next slot (43_transport.md R276). -/
def txNextSlot (s : State) : State := { s with tx := { s.tx with slot := s.tx.slot + 1, bit := 0 } }

/-- `elapsed` at END (43_transport.md R276, R281). -/
def elapsedUs (s : State) : Nat := satSub s.time s.tx.cycleStart

/-- END's pacing: the overrun warning, and when the next cycle starts (43_transport.md R276, R281). -/
def txPace (s : State) : State :=
  if periodUs s.cfg < elapsedUs s then
    { s.appendLog .overrunWarning .tx (BitVec.ofNat 16 (min 65535 (elapsedUs s - periodUs s.cfg))) with
      tx := { s.tx with nextStart := s.time } }
  else { s with tx := { s.tx with nextStart := later s.tx.cycleStart (periodUs s.cfg) } }

/-- END: the frame counts as transmitted, the line is idle (43_transport.md R276, R280, R284). -/
def txEnd (s : State) : State :=
  let s1 := txPace s
  { s1 with tx := { s1.tx with
      line := true, phase := .sleep,
      frames := s1.tx.frames ++ [{ start := s.tx.cycleStart, bytes := s.tx.snap }] } }

/-- DATA (43_transport.md R276). -/
def txData (s : State) : Host.Outcome State Fault Refusal :=
  match s.tx.snap[s.tx.slot.toNat]? with
  | none => .fault .slotOutsideFrame
  | some d =>
    if s.tx.bit < bitsPerSlot then .next (txBit d s)
    else if s.tx.slot.toNat < s.n then .next (txNextSlot s)
    else .next (txEnd s)

/-- The TX agent's step (43_transport.md R276). -/
def txStep (s : State) : Host.Outcome State Fault Refusal :=
  if !txEnabled s then .next s
  else
    match s.tx.phase with
    | .idle => .next (txTop s)
    | .sleep => .next (txTop s)
    | .pause => .next (txTop s)
    | .breakLow => .next (txBreak s)
    | .mab => .next (txMab s)
    | .data => txData s

/-! ## The line of a failed cycle (93_implementation_defined.md U6) -/

/-- The cycle in progress will fail, and has not yet. -/
def cycleFailing (s : State) : Bool :=
  (s.tx.phase == .breakLow || s.tx.phase == .mab) && !s.sinkOk

/-- The line shows `b`, in a cycle whose write will fail and in no other. -/
def lineNoise (b : Bool) (s : State) : State :=
  if cycleFailing s then { s with tx := { s.tx with line := b } } else s

end Sys2Proof.Machine
end

