-- ==== Sys2Proof/Machine/Orchestrator.lean ====
section
/-! DEFINITION. The orchestrator: START, STOP, the ticker, the deadlines of TIME and the environment's other moves
(44_orchestrator.md, 70_reset_and_hazards.md R360). -/

namespace Sys2Proof.Machine

/-! ## START (44_orchestrator.md R303, R304) -/

/-- `a_need`: AUDIO_CONNECT is asked. -/
def audioNeeded (mask : BitVec 3) (s : State) : Bool := namesCapture mask && !s.loops.runCapture

/-- `s_need`: SERIAL_CONNECT is asked. -/
def serialNeeded (mask : BitVec 3) (s : State) : Bool := namesTx mask && !s.loops.runTx && !s.tx.virtualSink

/-- `a_ok`. -/
def audioOk (mask : BitVec 3) (s : State) : Bool := !audioNeeded mask s || s.audioConnect

/-- `s_ok`. -/
def serialOk (mask : BitVec 3) (s : State) : Bool := !serialNeeded mask s || s.serialConnect

/-- The state after the devices that are needed were asked. -/
def askDevices (mask : BitVec 3) (s : State) : State :=
  let s1 := if audioNeeded mask s then s.askedAudio else s
  if serialNeeded mask s then s1.askedSerial else s1

/-- The fall back to the virtual sink, reported in LOG (R304 (a)). -/
def degrade (s : State) : State :=
  { s.appendLog .deviceError .tx 1 with tx := { s.tx with virtualSink := true } }

/-- START's part for the capture loop. -/
def startCapture (aOk : Bool) (s : State) : State :=
  if s.loops.runCapture then { s with loops := { s.loops with stopCapture := false } }
  else if aOk then
    { s with
      loops := { s.loops with runCapture := true, stopCapture := false }
      det := { s.det with failCnt := 0 }
      fa := { s.fa with cnt := 0 } }
  else s

/-- START's part for the ticker. -/
def startTick (s : State) : State :=
  if s.loops.runTick then { s with loops := { s.loops with stopTick := false } }
  else { s with loops := { s.loops with runTick := true, stopTick := false, nextTick := s.time } }

/-- START's part for the transmit loop. -/
def startTx (s : State) : State :=
  if s.loops.runTx then { s with loops := { s.loops with stopTx := false } }
  else
    { s with
      loops := { s.loops with runTx := true, stopTx := false }
      tx := { s.tx with phase := .idle, nextStart := s.time } }

/-- The loops the mask names are started, in the order capture, ticker, transmit. -/
def startLoops (mask : BitVec 3) (aOk : Bool) (s : State) : State :=
  let s1 := if namesCapture mask then startCapture aOk s else s
  let s2 := if namesTick mask then startTick s1 else s1
  if namesTx mask then startTx s2 else s2

/-- START(mask), as a whole (R303, R304): (b) a serial failure without a fallback starts nothing; (a) with one the
transport degrades; (c) an audio failure is reported after the other loops were started. -/
def startResult (mask : BitVec 3) (s : State) : State :=
  let asked := askDevices mask s
  if !serialOk mask s && !s.cfg.fallbackEn then
    asked.refuse .deviceError (4 + if audioOk mask s then 0 else 1)
  else
    let s1 := if serialOk mask s then asked else degrade asked
    let s2 := startLoops mask (audioOk mask s) s1
    if audioOk mask s then s2.respondOk (runBits s2.loops) else s2.refuse .deviceError 1

/-- START. -/
def execStart (mask : BitVec 3) (s : State) : Host.Outcome State Fault Refusal := .next (startResult mask s)

/-! ## STOP (44_orchestrator.md R306) -/

/-- The stop flags of the named loops that run are set. -/
def requestStop (mask : BitVec 3) (l : Loops) : Loops :=
  { l with
    stopCapture := l.stopCapture || (namesCapture mask && l.runCapture)
    stopTick := l.stopTick || (namesTick mask && l.runTick)
    stopTx := l.stopTx || (namesTx mask && l.runTx) }

/-- STOP. -/
def execStop (mask : BitVec 3) (s : State) : Host.Outcome State Fault Refusal :=
  .next (State.respondOk { s with loops := requestStop mask s.loops } (runBits s.loops))

/-! ## The ticker (44_orchestrator.md R305) -/

/-- The TICK step is enabled. -/
def tickEnabled (s : State) : Bool := s.loops.runTick && s.loops.nextTick.toNat ≤ s.time.toNat

/-- The loop ends, without an UPDATE. -/
def tickStop (s : State) : State :=
  { s with loops := { s.loops with runTick := false, stopTick := false } }

/-- The next tick lies on the grid, TICK_US after the last one. -/
def advanceTick (s : State) : State :=
  { s with loops := { s.loops with nextTick := later s.loops.nextTick tickUs } }

/-- TICK: UPDATE(TIME), its response dropped (R301, R305). -/
def tickStep (s : State) : Host.Outcome State Fault Refusal :=
  if !tickEnabled s then .next s
  else if s.loops.stopTick then .next (tickStop s)
  else
    match updateOp s.time s with
    | .error f => .fault f
    | .ok p => .next (advanceTick p.2)

/-! ## TIME and its deadlines (44_orchestrator.md R302, R308) -/

/-- TIME may reach `t`: no enabled timed step is due before it. -/
def beforeDeadlines (s : State) (t : Nat) : Bool :=
  (!s.loops.runTick || t ≤ s.loops.nextTick.toNat + s.cfg.tickJitterUs) && (!s.loops.runTx || t ≤ txDue s)

/-- TIME advances by `d`, unless a deadline lies before; at 2^63 the model ends (10_state.md R22, U13). -/
def advanceTime (d : Nat) (s : State) : Host.Outcome State Fault Refusal :=
  if !beforeDeadlines s (s.time.toNat + d) then .next s
  else if 2 ^ 63 ≤ s.time.toNat + d then .refused .timeBeyondPremise
  else .next { s with time := later s.time d }

/-! ## The environment's other moves -/

/-- The reset input (70_reset_and_hazards.md R360): CFG and the environment stay, all else is as after power-on. -/
def resetInput (s : State) : State := resetWith s.cfg s.env

/-- The audio source comes to hold an item (44_orchestrator.md R302). A read failure leaves a partly assembled frame
(FA_BUF, FA_CNT, FA_TCAP) standing: DESIGN CHOICE, unsafe, the spec does not say what the read-failure strobe does to
it (30_encoding.md R118, 10_state.md R49, log 22). -/
def offerItem (it : AudioItem) (s : State) : State :=
  { s with env := { s.env with audio := s.env.audio ++ [it] } }

/-- The audio source loses the `k`-th item it holds (40_beat_detector.md R158, 70_reset_and_hazards.md R373). -/
def loseItem (k : Nat) (s : State) : State :=
  { s with env := { s.env with audio := s.env.audio.eraseIdx k } }

end Sys2Proof.Machine
end

