-- ==== Sys2Proof/Machine/Transport.lean ====
section
/-! DEFINITION. The buffer accessors of the transport: SET_CHANNEL, SET_CHANNELS, GET_CHANNEL, BLACKOUT, SET_ALL
(43_transport.md R260 to R270). Each is one atomic step over CH and none looks at the transmit loop. -/

namespace Sys2Proof.Machine

/-- SET_CHANNEL (43_transport.md R260). -/
def execSetChannel (idx val : BitVec 12) (s : State) : Host.Outcome State Fault Refusal :=
  match channelIndex? s.n idx with
  | none => raise .validationError (infoIndexValue idx val) s
  | some i =>
    match byteValue? val with
    | none => raise .validationError (infoIndexValue idx val) s
    | some v => .next ((s.writeChannels [(i, v)]).respondOk 0)

/-- SET_CHANNELS (43_transport.md R261): every pair is checked before any is written. Its check of the pair words'
form, which comes before, is the decoder's (`decodePairs`, log 10). -/
def execSetChannels (pairs : List Pair) (s : State) : Host.Outcome State Fault Refusal :=
  match firstBadPair? s.n pairs with
  | some p => raise .validationError (infoIndexValue p.idx p.val) s
  | none => .next ((s.writeChannels (pairCells s.n pairs)).respondOk 0)

/-- GET_CHANNEL (43_transport.md R262). -/
def execGetChannel (idx : BitVec 12) (s : State) : Host.Outcome State Fault Refusal :=
  match channelIndex? s.n idx with
  | none => raise .validationError (infoIndexValue idx 0) s
  | some i => .next (s.respondOk ((s.channel i).zeroExtend 24))

/-- BLACKOUT (43_transport.md R263). -/
def execBlackout (s : State) : Host.Outcome State Fault Refusal :=
  .next ((s.fillChannels 0).respondOk 0)

/-- SET_ALL (43_transport.md R264). -/
def execSetAll (val : BitVec 12) (s : State) : Host.Outcome State Fault Refusal :=
  match byteValue? val with
  | none => raise .validationError (infoValue val) s
  | some v => .next ((s.fillChannels v).respondOk 0)

end Sys2Proof.Machine
end

