-- ==== Sys2Proof/Machine/Dispatch.lean ====
section
/-! DEFINITION. One arm per command, each one call of its meaning. -/

namespace Sys2Proof.Machine

def exec (i : Instr) (s : State) : Host.Outcome State Fault Refusal :=
  match i with
  | .setChannel idx val => Sys2Proof.Machine.execSetChannel idx val s
  | .setChannels pairs => Sys2Proof.Machine.execSetChannels pairs s
  | .getChannel idx => Sys2Proof.Machine.execGetChannel idx s
  | .blackout => Sys2Proof.Machine.execBlackout s
  | .setAll val => Sys2Proof.Machine.execSetAll val s
  | .setPreset id => Sys2Proof.Machine.execSetPreset id s
  | .setAudioReactive en => Sys2Proof.Machine.execSetAudioReactive en s
  | .setAddress fix addr => Sys2Proof.Machine.execSetAddress fix addr s
  | .getStatus => Sys2Proof.Machine.execGetStatus s
  | .setBpm bpm => Sys2Proof.Machine.execSetBpm bpm s
  | .beat ts => Sys2Proof.Machine.execBeat ts s
  | .trigger ts => Sys2Proof.Machine.execTrigger ts s
  | .update now => Sys2Proof.Machine.execUpdate now s
  | .getVolume => Sys2Proof.Machine.execGetVolume s
  | .start mask => Sys2Proof.Machine.execStart mask s
  | .stop mask => Sys2Proof.Machine.execStop mask s

end Sys2Proof.Machine
end

