-- ==== Sys2Proof/Machine/Step.lean ====
section
/-! DEFINITION. One step: the environment's next move is made (20_memory.md R80, 00_scope.md R14, log 1). -/

namespace Sys2Proof.Machine

/-- The HOST agent's step: the complete command in C_BUF is decoded and executes as one atomic step; without one the
agent has no step (30_encoding.md R100, 60_exceptions.md R330). -/
def hostStep (s : State) : Host.Outcome State Fault Refusal :=
  if !s.commandReady then .next s
  else
    match decode s.fetch with
    | .error e => raiseUndecoded e s
    | .ok i => exec i s

/-- What a move does. A move that is not enabled changes nothing (log 1). -/
def perform (m : Move) (s : State) : Host.Outcome State Fault Refusal :=
  match m with
  | .reset => .next (resetInput s)
  | .time d => advanceTime d s
  | .word w => .next (s.receiveWord w)
  | .host => hostStep s
  | .sample x => .next (assemble x s)
  | .audioItem it => .next (offerItem it s)
  | .audioLost k => .next (loseItem k s)
  | .capture => captureStep s
  | .ticker => tickStep s
  | .tx => txStep s
  | .lineNoise b => .next (lineNoise b s)

/-- One step of the core and its environment. -/
def step (s : State) : Host.Outcome State Fault Refusal := perform s.nextMove s.takeMove

/-- `s` with the command whose words are the low `nbits` bits of `w` (every higher bit 0) complete in the command port
and the HOST agent to step next: `step` fetches and runs exactly it (log 1). -/
def State.withFetchWord (s : State) (nbits w : Nat) : State :=
  { s with
    port := { cBuf := tableWords nbits w, cNeed := 0 }
    env := { s.env with moves := .host :: s.env.moves } }

end Sys2Proof.Machine
end

