-- ==== Sys2Proof/Machine/Assembler.lean ====
section
/-! DEFINITION. The assembler syntax and its pseudo-instructions (30_encoding.md R125, R121): one command per line,
mnemonic in lower case, operands separated by commas, `;` starts a comment. It is the host's tool, not a part of the
core: `step` never uses it (log 15). -/

namespace Sys2Proof.Machine

/-! ## Characters and numbers -/

/-- White space inside a line. -/
def isBlank (ch : Char) : Bool := ch == ' ' || ch == '\t'

/-- A text without the white space around it. -/
def trimBlanks (cs : List Char) : List Char := ((cs.dropWhile isBlank).reverse.dropWhile isBlank).reverse

/-- A text cut at every separator: n separators give n + 1 parts. -/
def splitAtChar (sep : Char) : List Char → List (List Char)
  | [] => [[]]
  | ch :: rest =>
    match splitAtChar sep rest with
    | [] => [[ch]]
    | part :: parts => if ch == sep then [] :: part :: parts else (ch :: part) :: parts

/-- The value of a digit in base 16. -/
def digitValue? (ch : Char) : Option Nat :=
  if '0' ≤ ch && ch ≤ '9' then some (ch.toNat - '0'.toNat)
  else if 'a' ≤ ch && ch ≤ 'f' then some (ch.toNat - 'a'.toNat + 10)
  else if 'A' ≤ ch && ch ≤ 'F' then some (ch.toNat - 'A'.toNat + 10)
  else none

/-- Digits in a base, on top of what was read so far. -/
def readDigits (base : Nat) : List Char → Nat → Option Nat
  | [], acc => some acc
  | ch :: rest, acc =>
    match digitValue? ch with
    | none => none
    | some d => if d < base then readDigits base rest (acc * base + d) else none

/-- A number, decimal or `0x` hexadecimal. -/
def readNat (cs : List Char) : Option Nat :=
  match cs with
  | [] => none
  | '0' :: 'x' :: rest => if rest.isEmpty then none else readDigits 16 rest 0
  | _ => readDigits 10 cs 0

/-- A number with an optional leading `-`. -/
def readInt (cs : List Char) : Option Int :=
  match cs with
  | '-' :: rest => (readNat rest).map fun n => -(n : Int)
  | _ => (readNat cs).map fun n => (n : Int)

/-! ## Operands that fit their fields (R121) -/

/-- A number that fits an unsigned field of `w` bits. -/
def readField (w : Nat) (cs : List Char) : Option (BitVec w) :=
  match readNat cs with
  | some n => if n < 2 ^ w then some (BitVec.ofNat w n) else none
  | none => none

/-- A number that fits VAL, -2048 to 2047. -/
def readValue (cs : List Char) : Option (BitVec 12) :=
  match readInt cs with
  | some v => if -2048 ≤ v && v ≤ 2047 then some (BitVec.ofInt 12 v) else none
  | none => none

/-- `<idx>=<val>`. -/
def readPair (cs : List Char) : Option Pair :=
  match splitAtChar '=' cs with
  | [i, v] =>
    match readField 12 (trimBlanks i), readValue (trimBlanks v) with
    | some idx, some val => some { idx := idx, val := val }
    | _, _ => none
  | _ => none

/-- Zero or more pairs, at most 4095. -/
def readPairs (ops : List (List Char)) : Option (List Pair) :=
  if 4095 < ops.length then none else ops.mapM readPair

/-- A preset: `#<id>`, or the name of a table entry. A name not in the table is an error. -/
def readPreset (c : Cfg) (cs : List Char) : Option (BitVec 8) :=
  match cs with
  | '#' :: rest => readField 8 rest
  | _ =>
    match (c.presetTable.map (·.name.toList)).idxOf? cs with
    | some i => if i < 256 then some (BitVec.ofNat 8 i) else none
    | none => none

/-- A fixture: `panel_a`, `panel_b`, `bar`, or `#<n>`. -/
def readFixture (cs : List Char) : Option (BitVec 4) :=
  match cs with
  | '#' :: rest => readField 4 rest
  | _ =>
    if cs == "panel_a".toList then some 0 else if cs == "panel_b".toList then some 1
    else if cs == "bar".toList then some 2 else none

/-- One loop's name. -/
def readLoop (cs : List Char) : Option (BitVec 3) :=
  if cs == "capture".toList then some 1 else if cs == "tick".toList then some 2
  else if cs == "tx".toList then some 4 else none

/-- A `|`-separated list of loops, or a number 0 to 7. -/
def readLoops (cs : List Char) : Option (BitVec 3) :=
  match readField 3 cs with
  | some m => some m
  | none =>
    match ((splitAtChar '|' cs).map trimBlanks).mapM readLoop with
    | some ms => some (ms.foldl (· ||| ·) 0)
    | none => none

/-- `0` or `1`. -/
def readFlag (cs : List Char) : Option Bool := (readField 1 cs).map fun b => b == 1

/-! ## Lines -/

/-- The operands of a line: none for an empty rest. -/
def operandTexts (rest : List Char) : List (List Char) :=
  if (trimBlanks rest).isEmpty then [] else (splitAtChar ',' rest).map trimBlanks

/-- A mnemonic, or a pseudo-instruction, with its operands. -/
def assembleCommand (c : Cfg) (mnemonic : List Char) (ops : List (List Char)) : Option Instr :=
  if mnemonic == "set_channels".toList then (readPairs ops).map .setChannels
  else
    match ops with
    | [] =>
      if mnemonic == "blackout".toList then some .blackout
      else if mnemonic == "get_status".toList then some .getStatus
      else if mnemonic == "get_volume".toList then some .getVolume
      else if mnemonic == "start_all".toList then some (.start 7)
      else if mnemonic == "stop_all".toList then some (.stop 7)
      else if mnemonic == "audio_on".toList then some (.setAudioReactive true)
      else if mnemonic == "audio_off".toList then some (.setAudioReactive false)
      else none
    | [x] =>
      if mnemonic == "get_channel".toList then (readField 12 x).map .getChannel
      else if mnemonic == "set_all".toList then (readValue x).map .setAll
      else if mnemonic == "set_preset".toList then (readPreset c x).map .setPreset
      else if mnemonic == "set_audio_reactive".toList then (readFlag x).map .setAudioReactive
      else if mnemonic == "set_bpm".toList then (readField 16 x).map .setBpm
      else if mnemonic == "beat".toList then (readField 64 x).map .beat
      else if mnemonic == "trigger".toList then (readField 64 x).map .trigger
      else if mnemonic == "update".toList then (readField 64 x).map .update
      else if mnemonic == "start".toList then (readLoops x).map .start
      else if mnemonic == "stop".toList then (readLoops x).map .stop
      else none
    | [x, y] =>
      if mnemonic == "set_channel".toList then
        match readField 12 x, readValue y with
        | some idx, some val => some (.setChannel idx val)
        | _, _ => none
      else if mnemonic == "set_address".toList then
        match readFixture x, readField 12 y with
        | some fix, some addr => some (.setAddress fix addr)
        | _, _ => none
      else none
    | _ => none

/-- One line of text: the command it stands for, `none` where the assembler refuses it. -/
def assembleLine (c : Cfg) (line : String) : Option Instr :=
  let text := trimBlanks (line.toList.takeWhile (· != ';'))
  assembleCommand c (text.takeWhile fun ch => !isBlank ch) (operandTexts (text.dropWhile fun ch => !isBlank ch))

end Sys2Proof.Machine
end

