-- ==== Sys2Proof/Safety.lean ====
section
/-! DEFINITION. What counts as a legal state and a safe outcome, in the terms the claims use. `Legal` collects the
ranges and invariants that 10_state.md, 43_transport.md and 44_orchestrator.md state of the registers. -/

namespace Sys2Proof.Machine

/-- The step went on or was refused: it did not fault. -/
def Faultless (o : Host.Outcome State Fault Refusal) : Prop := ∀ f, o ≠ .fault f

/-- The words received so far are a beginning of the command their header announces (10_state.md R47). -/
def portFits (p : Port) : Prop :=
  match p.cBuf with
  | [] => p.cNeed = 0
  | h :: ops => ops.length + p.cNeed.toNat = operandWords h

/-- A transmitted frame has length N + 1 and first byte 0x00 (43_transport.md R284). -/
def frameFits (n : Nat) (f : LineFrame) : Prop := f.bytes.length = n + 1 ∧ f.bytes[0]? = some 0

/-- The invariants of the registers. -/
structure Legal (s : State) : Prop where
  /-- CFG is well-formed (00_scope.md R7). -/
  cfg_wf : s.cfg.Wf
  /-- ERR_PAUSE_US added to a TIME below 2^63 fits the 64 bits of T_NEXT_START (45_arithmetic_and_sequencing.md R310;
  DEDUCED, log 11). -/
  pause_fits : s.cfg.errPauseUs ≤ 2 ^ 63
  /-- TIME is below 2^63 (10_state.md R22). -/
  time_premise : s.time.toNat < 2 ^ 63
  /-- D_VOL is 0 to 32768 (R23). -/
  vol_le : s.det.vol.toNat ≤ 32768
  /-- D_PREV_SPEC has one entry per bin of BAND (R24). -/
  spec_len : s.det.prevSpec.length = (band s.cfg).length
  /-- D_HIST has at most HIST_LEN entries (R26). -/
  hist_len : s.det.hist.length ≤ s.cfg.histLen
  /-- A pending event keeps the capture loop running (40_beat_detector.md R157, R160). -/
  event_running : s.mbox.valid = true → s.loops.runCapture = true
  /-- E_PRESET is an index of PRESET_TABLE (R29). -/
  preset_lt : s.eng.preset.toNat < s.cfg.presetTable.length
  /-- E_ENV is 0 to 65536 (R31). -/
  envelope_le : s.eng.envelope.toNat ≤ 65536
  /-- E_BPM is 1 to 65535 (R37). -/
  bpm_pos : s.eng.bpm ≠ 0
  /-- Every fixture range lies inside 1..N (R36). -/
  ranges_fit : rangesFit s.n s.eng.addr = true
  /-- The channel space is in canonical form. -/
  ch_wf : Memory.wf s.ch = true
  /-- Only cells 1..N are listed (20_memory.md R70). -/
  ch_within : Memory.within s.n s.ch = true
  /-- T_SNAP has N + 1 entries (R39). -/
  snap_len : s.tx.snap.length = s.n + 1
  /-- T_SNAP[0] is always 0x00 (R39). -/
  snap_zero : s.tx.snap[0]? = some 0
  /-- T_SLOT is 0 to N (R40). -/
  slot_le : s.tx.slot.toNat ≤ s.n
  /-- The model's bit counter is 0 to 11. -/
  bit_le : s.tx.bit ≤ bitsPerSlot
  /-- Every transmitted frame has the frame's shape (43_transport.md R284). -/
  frames_fit : ∀ f ∈ s.tx.frames, frameFits s.n f
  /-- Outside a cycle the line is at level 1 (43_transport.md R280, R286). -/
  line_idle : atTop s.tx.phase = true → s.tx.line = true
  /-- In the break of a cycle that will not fail the line is at level 0 (43_transport.md R277). -/
  line_break : s.tx.phase = .breakLow → s.sinkOk = true → s.tx.line = false
  /-- In the mark of a cycle that will not fail the line is at level 1 (43_transport.md R278). -/
  line_mark : s.tx.phase = .mab → s.sinkOk = true → s.tx.line = true
  /-- A stopped transmit loop is in phase IDLE (43_transport.md R286). -/
  tx_stopped : s.loops.runTx = false → s.tx.phase = .idle
  /-- With the virtual sink no cycle is begun (43_transport.md R285). -/
  virtual_top : s.tx.virtualSink = true → atTop s.tx.phase = true
  /-- RUN and STOP are STOPPED, RUNNING or STOPPING (44_orchestrator.md R307). -/
  flags_ok : flagsOk s.loops = true
  /-- No cycle starts in the future. -/
  cycle_le : s.tx.cycleStart.toNat ≤ s.time.toNat
  /-- The next cycle is at most a period or an error pause away (43_transport.md R281, R282). -/
  next_start_le : s.tx.nextStart.toNat ≤ s.time.toNat + max (periodUs s.cfg) s.cfg.errPauseUs
  /-- The next tick is at most one period away (44_orchestrator.md R305). -/
  next_tick_le : s.loops.nextTick.toNat ≤ s.time.toNat + tickUs
  /-- No step of the transmit loop is overdue (44_orchestrator.md R308). -/
  tx_deadline : s.loops.runTx = true → s.time.toNat ≤ txDue s
  /-- No tick is overdue (44_orchestrator.md R308). -/
  tick_deadline : s.loops.runTick = true → s.time.toNat ≤ s.loops.nextTick.toNat + s.cfg.tickJitterUs
  /-- C_BUF and C_NEED fit their header (R47). -/
  port_fits : portFits s.port
  /-- FA_CNT counts samples of FA_BUF and stays below FRAME_LEN (R49). -/
  fa_cnt : s.fa.cnt ≤ s.fa.buf.length ∧ s.fa.cnt < s.cfg.frameLen

/-! ## What a look shows (42_engine_render.md R216, R217, 20_memory.md R77, R78) -/

/-- What the rules of UPDATE, BEAT and TRIGGER need of the active descriptor `d` (10_state.md R29,
42_engine_render.md R250, 00_scope.md R7). -/
structure ActiveIs (s : State) (d : Descriptor) : Prop where
  entry : s.cfg.presetTable[s.eng.preset.toNat]? = some d
  wf : d.wf = true
  palette : s.cfg.randomPalette ≠ []

/-- What UPDATE needs besides: a tempo, fixture ranges inside 1..N, and a channel space in canonical form. -/
structure Renderable (s : State) (d : Descriptor) : Prop extends ActiveIs s d where
  tempo : s.eng.bpm ≠ 0
  ranges : rangesFit s.n s.eng.addr = true
  canonical : Memory.wf s.ch = true

/-- The first channel of a fixture. -/
def baseOf (a : PerFixture (BitVec 10)) (f : Fixture) : Nat := (PerFixture.get a f).toNat

/-- Fixture `f` owns channel `i` (20_memory.md R77). -/
def ownsCell (a : PerFixture (BitVec 10)) (f : Fixture) (i : Nat) : Bool :=
  baseOf a f ≤ i && i < baseOf a f + f.width

/-- Some fixture owns channel `i`. -/
def ownedCell (a : PerFixture (BitVec 10)) (i : Nat) : Bool :=
  ownsCell a .panelA i || ownsCell a .panelB i || ownsCell a .bar i

/-- A fixture after `f` in the order PANEL_A, PANEL_B, BAR owns channel `i` (20_memory.md R78). -/
def laterOwns (a : PerFixture (BitVec 10)) (f : Fixture) (i : Nat) : Bool :=
  match f with
  | .panelA => ownsCell a .panelB i || ownsCell a .bar i
  | .panelB => ownsCell a .bar i
  | .bar => false

/-- The bytes of a fixture that shows colour `c` at brightness `b`: a panel's one cell, or the BAR's three cells and
five dark channels (42_engine_render.md R216, R217). -/
def shownBytes (f : Fixture) (c : Color) (b : Nat) : List Byte :=
  match f with
  | .panelA => [scale c.r b, scale c.g b, scale c.b b]
  | .panelB => [scale c.r b, scale c.g b, scale c.b b]
  | .bar =>
    [scale c.r b, scale c.g b, scale c.b b, scale c.r b, scale c.g b, scale c.b b,
      scale c.r b, scale c.g b, scale c.b b, 0, 0, 0, 0, 0]

/-- In `t`, fixture `f` at the addresses `a` shows colour `c` at brightness `b` on every channel it owns and no later
fixture does. -/
def Shows (t : State) (a : PerFixture (BitVec 10)) (f : Fixture) (c : Color) (b : Nat) : Prop :=
  ∀ o, o < f.width → laterOwns a f (baseOf a f + o) = false →
    t.channel (baseOf a f + o) = (shownBytes f c b).getD o 0

/-- In `t`, the three fixtures show these colours and brightnesses. -/
structure ShowsLook (t : State) (a : PerFixture (BitVec 10)) (l : PerFixture Shade) : Prop where
  panelA : Shows t a .panelA l.panelA.1 l.panelA.2
  panelB : Shows t a .panelB l.panelB.1 l.panelB.2
  bar : Shows t a .bar l.bar.1 l.bar.2

/-- Channels no fixture owns read the same in `s` and `t` (20_memory.md R77). -/
def UnownedSame (s t : State) (a : PerFixture (BitVec 10)) : Prop :=
  ∀ i, ownedCell a i = false → t.channel i = s.channel i

/-! ## Frames -/

/-- The command port ready for the next header. -/
def readyPort : Port := { cBuf := [], cNeed := 0 }

/-- `t` is `s` with one command finished and answered by the words `ws`: C_BUF is emptied, RESP has grown by `ws`,
nothing else changed (30_encoding.md R112, 60_exceptions.md R334). -/
def AnsweredOnly (s t : State) (ws : List Word) : Prop :=
  t = { s with port := readyPort, resp := s.resp ++ ws }

/-- The same, and the channels changed as well. -/
def AnsweredChannels (s t : State) (ws : List Word) : Prop :=
  t = { s with ch := t.ch, port := readyPort, resp := s.resp ++ ws }

/-- The same, and engine registers, channels and the coming draws changed as well. -/
def AnsweredEngine (s t : State) (ws : List Word) : Prop :=
  t = { s with ch := t.ch, eng := t.eng, env := t.env, port := readyPort, resp := s.resp ++ ws } ∧
    t.env = { s.env with draws := t.env.draws, drawsMade := t.env.drawsMade }

/-! ## Reset (10_state.md R54) -/

/-- Every register holds the value of the reset table (10_state.md R54); FRAMES is empty and the model's bit counter is 0
by the model's choice (log 19). -/
structure CleanReset (t : State) : Prop where
  time : t.time = 0
  vol : t.det.vol = 0
  energy : t.det.ePrev = 0
  failures : t.det.failCnt = 0
  spectrum : t.det.prevSpec = List.replicate (band t.cfg).length 0
  history : t.det.hist = []
  detector_beat : t.det.lastBeat = 0 ∧ t.det.lbValid = false
  mailbox : t.mbox.valid = false ∧ t.mbox.ts = 0
  preset : t.eng.preset = 0
  base : ∀ d, t.cfg.presetTable[0]? = some d → t.eng.base = d.base
  envelope : t.eng.envelope = 65536
  counters : t.eng.toggle = false ∧ t.eng.rot = 0 ∧ t.eng.beatCount = 0
  engine_beat : t.eng.lastBeat = 0 ∧ t.eng.lbValid = false
  last_tick : t.eng.lastTick = 0
  reactive : t.eng.audioReactive = true
  addresses : t.eng.addr = t.cfg.addrReset
  tempo : t.eng.bpm = t.cfg.bpmReset
  channels : ∀ i, t.channel i = 0
  snapshot : t.tx.snap = List.replicate (t.n + 1) 0
  transmit : t.tx.phase = .idle ∧ t.tx.slot = 0 ∧ t.tx.cycleStart = 0 ∧ t.tx.nextStart = 0 ∧ t.tx.bit = 0
  sink : t.tx.virtualSink = false
  line : t.tx.line = true
  loops_stopped : t.loops.runCapture = false ∧ t.loops.runTick = false ∧ t.loops.runTx = false
  stops_clear : t.loops.stopCapture = false ∧ t.loops.stopTick = false ∧ t.loops.stopTx = false
  next_tick : t.loops.nextTick = 0
  port : t.port = { cBuf := [], cNeed := 0 }
  frame_assembler : t.fa = { buf := [], cnt := 0, tcap := 0 }
  outputs : t.log = [] ∧ t.resp = [] ∧ t.tx.lineTrace = [] ∧ t.tx.frames = []

/-! ## What the rules of the commands promise -/

/-- A header with OP of `o` and a bit set among `bits` raises IllegalCommand with its low 24 bits: nothing changes but
the port and RESP (30_encoding.md R120, 60_exceptions.md R321). -/
def ZeroBitsRefused (o : Opcode) (bits : Word) : Prop :=
  ∀ (h : Word) (s : State), h.extractLsb' 24 8 = opByte o → h &&& bits ≠ 0 →
    s.port = { cBuf := [h], cNeed := 0 } →
    ∃ t, hostStep s = .next t ∧ t = { s with
      port := { cBuf := [], cNeed := 0 }, resp := s.resp ++ [(0x06#8 ++ h.extractLsb' 0 24 : Word)] }

/-- A pair of a map that SET_CHANNELS accepts (43_transport.md R261). -/
def pairInRange (n : Nat) (p : Pair) : Prop :=
  1 ≤ p.idx.toNat ∧ p.idx.toNat ≤ n ∧ 0 ≤ p.val.toInt ∧ p.val.toInt ≤ 255

/-- `e` is the engine after BEAT_PROC(ts) under descriptor `d`, from the engine of `s` (41_engine_control.md R192 to
R194). -/
structure BeatProcessed (s : State) (d : Descriptor) (ts : Time) (e : Engine) : Prop where
  count : e.beatCount = s.eng.beatCount + 1
  clock : e.lastBeat = ts ∧ e.lbValid = true
  kept : e.preset = s.eng.preset ∧ e.lastTick = s.eng.lastTick ∧ e.audioReactive = s.eng.audioReactive ∧
    e.addr = s.eng.addr ∧ e.bpm = s.eng.bpm
  toggle : e.toggle =
    if (s.eng.beatCount + 1).toNat % d.divider = 0 then !s.eng.toggle else s.eng.toggle
  envelope : e.envelope =
    if (s.eng.beatCount + 1).toNat % d.divider = 0 ∧ (d.kind = .pulseDecay ∨ d.kind = .cyclicPalette) then 65536
    else s.eng.envelope
  rot : e.rot =
    if (s.eng.beatCount + 1).toNat % d.divider = 0 ∧ d.onBeat = .rotate then s.eng.rot + 1 else s.eng.rot
  base_kept : ¬((s.eng.beatCount + 1).toNat % d.divider = 0) ∨ d.onBeat = .keep → e.base = s.eng.base
  base_rotated : (s.eng.beatCount + 1).toNat % d.divider = 0 → d.onBeat = .rotate →
    e.base.panelA = s.eng.base.panelB ∧ e.base.panelB = s.eng.base.bar ∧ e.base.bar = s.eng.base.panelA
  base_drawn : (s.eng.beatCount + 1).toNat % d.divider = 0 → d.onBeat = .randomize →
    e.base.panelA ∈ s.cfg.randomPalette ∧ e.base.panelB ∈ s.cfg.randomPalette ∧ e.base.bar ∈ s.cfg.randomPalette
  base_from_draws : (s.eng.beatCount + 1).toNat % d.divider = 0 → d.onBeat = .randomize →
    ∀ u0 u1 u2 rest, s.env.draws = u0 :: u1 :: u2 :: rest →
      s.cfg.randomPalette[u0 % s.cfg.randomPalette.length]? = some e.base.panelA ∧
      s.cfg.randomPalette[u1 % s.cfg.randomPalette.length]? = some e.base.panelB ∧
      s.cfg.randomPalette[u2 % s.cfg.randomPalette.length]? = some e.base.bar

/-- UPDATE(now) synthesizes a beat that is processed: a beat is due (42_engine_render.md R211) and passes the guards of
ON_BEAT (41_engine_control.md R190). -/
def SynthesizesAt (s : State) (d : Descriptor) (now : Time) : Prop :=
  s.eng.audioReactive = true ∧
    (s.eng.lbValid = false ∨ 60000000 / s.eng.bpm.toNat < now.toNat - s.eng.lastBeat.toNat) ∧
    d.kind ≠ .blackout ∧ ¬(s.eng.lbValid = true ∧ now.toNat - s.eng.lastBeat.toNat ≤ 200000)

/-- `t` is `s` after UPDATE(now) under descriptor `d`, but for what the fixtures show; `e` is the engine after the
first duty, which the look reads (42_engine_render.md R210, R211, R230). -/
structure Updated (s t : State) (d : Descriptor) (now : Time) (e : Engine) : Prop where
  beat : SynthesizesAt s d now → BeatProcessed s d now e
  still : ¬SynthesizesAt s d now → e = s.eng
  engine : t.eng = { e with
    lastTick := now
    envelope :=
      if d.kind = .pulseDecay ∨ d.kind = .cyclicPalette then BitVec.ofNat 17 (e.envelope.toNat * 17 / 20)
      else e.envelope }
  unowned : UnownedSame s t s.eng.addr

/-- `p` is the least index at which the frame's greatest absolute sample is reached (40_beat_detector.md R149). -/
def IsFirstPeak (frame : List Sample) (p : Nat) : Prop :=
  ∃ x, frame[p]? = some x ∧ (∀ y ∈ frame, y.toInt.natAbs ≤ x.toInt.natAbs) ∧
    ∀ q y, q < p → frame[q]? = some y → y.toInt.natAbs < x.toInt.natAbs

/-- `t` is `s` after START(mask) started the loops it could, `aOk` saying whether the audio device is no obstacle
(44_orchestrator.md R303); RESP, LOG, T_VIRTUAL and the oracles' answers left aside. -/
structure Started (mask : BitVec 3) (aOk : Bool) (s t : State) : Prop where
  run_capture : t.loops.runCapture = (s.loops.runCapture || (mask.getLsbD 0 && aOk))
  run_tick : t.loops.runTick = (s.loops.runTick || mask.getLsbD 1)
  run_tx : t.loops.runTx = (s.loops.runTx || mask.getLsbD 2)
  stop_capture : t.loops.stopCapture =
    (s.loops.stopCapture && !(mask.getLsbD 0 && (s.loops.runCapture || aOk)))
  stop_tick : t.loops.stopTick = (s.loops.stopTick && !mask.getLsbD 1)
  stop_tx : t.loops.stopTx = (s.loops.stopTx && !mask.getLsbD 2)
  next_tick : t.loops.nextTick =
    if mask.getLsbD 1 = true ∧ s.loops.runTick = false then s.time else s.loops.nextTick
  failures : t.det = { s.det with
    failCnt := if mask.getLsbD 0 = true ∧ s.loops.runCapture = false ∧ aOk = true then 0 else s.det.failCnt }
  samples : t.fa = { s.fa with
    cnt := if mask.getLsbD 0 = true ∧ s.loops.runCapture = false ∧ aOk = true then 0 else s.fa.cnt }
  transmit : t.tx = { s.tx with
    phase := if mask.getLsbD 2 = true ∧ s.loops.runTx = false then .idle else s.tx.phase
    nextStart := if mask.getLsbD 2 = true ∧ s.loops.runTx = false then s.time else s.tx.nextStart
    virtualSink := t.tx.virtualSink }
  kept : t = { s with
    env := t.env, det := t.det, tx := t.tx, loops := t.loops, port := readyPort, fa := t.fa, log := t.log,
    resp := t.resp }

/-- The devices START asked, and no other input of the environment (44_orchestrator.md R302, R303). -/
structure Asked (audio serial : Bool) (s t : State) : Prop where
  audio_count : t.env.audioAsked = s.env.audioAsked + audio.toNat
  serial_count : t.env.serialAsked = s.env.serialAsked + serial.toNat
  audio_answers : t.env.audioConnects = if audio then s.env.audioConnects.tail else s.env.audioConnects
  serial_answers : t.env.serialConnects = if serial then s.env.serialConnects.tail else s.env.serialConnects
  kept : t.env = { s.env with
    audioAsked := t.env.audioAsked, serialAsked := t.env.serialAsked,
    audioConnects := t.env.audioConnects, serialConnects := t.env.serialConnects }

/-! ## Numbers in the assembler's text (30_encoding.md R121, R125) -/

/-- The content of an unsigned field of `w` bits for a number, `none` for a number that does not fit. -/
def fieldOf? (w : Nat) (v : Int) : Option (BitVec w) :=
  if 0 ≤ v ∧ v < 2 ^ w then some (BitVec.ofInt w v) else none

/-- The content of VAL for a number, `none` for a number that does not fit. -/
def valueOf? (v : Int) : Option (BitVec 12) :=
  if -2048 ≤ v ∧ v ≤ 2047 then some (BitVec.ofInt 12 v) else none

/-- A text that stands as one operand: not empty, without white space, comma and semicolon. -/
def isOperand (cs : List Char) : Bool :=
  !cs.isEmpty && cs.all fun ch => !isBlank ch && ch != ',' && ch != ';'

/-! ## Runs -/

/-- `t` is reached from `s` by some number of steps, none of them a reset. -/
inductive RunsTo (s : State) : State → Prop where
  | refl : RunsTo s s
  | tail {t u : State} : RunsTo s t → t.nextMove ≠ .reset → step t = .next u → RunsTo s u

/-- The engine registers that SET_PRESET keeps (41_engine_control.md R180, R181), less E_LAST_TICK, which no rule
reads (10_state.md R34). -/
def SameBeatAndPlace (e f : Engine) : Prop :=
  e.lastBeat = f.lastBeat ∧ e.lbValid = f.lbValid ∧ e.audioReactive = f.audioReactive ∧ e.addr = f.addr ∧
    e.bpm = f.bpm

end Sys2Proof.Machine
end

