-- ==== Sys2Proof/Certificates/Slice0/Obligations.lean ====
section
/-! DEFINITION. The statements for the provers. Each follows the numbered rules its docstring names; `Safety.lean`
holds the predicates they share. -/

section Statements
open Sys2Proof Sys2Proof.Machine

/-! ## Encoding (30_encoding.md) -/

/-- Every command a word sequence can carry is decoded from its own encoding, with every operand at every value
(R101 to R111). -/
def Obligations.DecodeOfEncode : Prop :=
  ∀ i : Instr, i.wellFormed = true → decode (encode i) = .ok i

/-- Every word sequence the decoder accepts is the encoding of the command it reads: no bit is dropped and no two
sequences mean one command (R101 to R111). -/
def Obligations.EncodeOfDecode : Prop :=
  ∀ (ws : List Word) (i : Instr), decode ws = .ok i → i.wellFormed = true ∧ encode i = ws

/-- The opcode map (R111): its OP, match and mask columns; a header selects a row exactly when `(CW and mask) = match`;
an OP value outside the map is unassigned. -/
def Obligations.HeaderSelectsRow : Prop :=
  (allOpcodes.map fun o => (opByte o, headerMatch o, headerMask o)) =
    [(0x10#8, 0x10000000#32, 0xFF000000#32), (0x11#8, 0x11000000#32, 0xFF000FFF#32),
     (0x12#8, 0x12000000#32, 0xFF000FFF#32), (0x13#8, 0x13000000#32, 0xFFFFFFFF#32),
     (0x14#8, 0x14000000#32, 0xFFFFF000#32), (0x20#8, 0x20000000#32, 0xFFFFFF00#32),
     (0x21#8, 0x21000000#32, 0xFFFFFFFE#32), (0x22#8, 0x22000000#32, 0xFF0FF000#32),
     (0x23#8, 0x23000000#32, 0xFFFFFFFF#32), (0x24#8, 0x24000000#32, 0xFFFF0000#32),
     (0x25#8, 0x25000000#32, 0xFFFFFFFF#32), (0x26#8, 0x26000000#32, 0xFFFFFFFF#32),
     (0x27#8, 0x27000000#32, 0xFFFFFFFF#32), (0x30#8, 0x30000000#32, 0xFFFFFFFF#32),
     (0x40#8, 0x40000000#32, 0xFFFFFFF8#32), (0x41#8, 0x41000000#32, 0xFFFFFFF8#32)] ∧
  (∀ o : Opcode, o ∈ allOpcodes) ∧
  (∀ (h : Word) (o : Opcode), decodeHeader h = .ok o ↔ h &&& headerMask o = headerMatch o) ∧
  (∀ h : Word, decodeHeader h = .error (.unassignedOpcode (h.extractLsb' 0 24)) ↔
    ∀ o : Opcode, h.extractLsb' 24 8 ≠ opByte o)

/-- How many operand words follow a header (R110): none after an illegal one, two for OP 0x25, 0x26, 0x27,
`CW[23:12]` for OP 0x11, none else. -/
def Obligations.OperandWordCount : Prop :=
  ∀ h : Word, operandWords h =
    if ∀ o : Opcode, o ∈ allOpcodes → h &&& headerMask o ≠ headerMatch o then 0
    else if h.extractLsb' 24 8 = 0x25 ∨ h.extractLsb' 24 8 = 0x26 ∨ h.extractLsb' 24 8 = 0x27 then 2
    else if h.extractLsb' 24 8 = 0x11 then (h.extractLsb' 12 12).toNat
    else 0

/-- Illegal encodings (R120): a header that selects no row is complete as it arrives, and the HOST step answers
IllegalCommand with its low 24 bits; a map's first pair word with `PW[31:24]` not 0 is reported once all words have
arrived; the all-zero word is illegal. Nothing but C_BUF and RESP changes. That HOST's step, a move of its own, finds
and answers the illegal word is the model's choice (logs 9 and 10). -/
def Obligations.IllegalEncodings : Prop :=
  (∀ (h : Word) (s : State), (∀ o : Opcode, h &&& headerMask o ≠ headerMatch o) →
    (s.port.cBuf = [] → (s.receiveWord h).port = { cBuf := [h], cNeed := 0 }) ∧
    (s.port = { cBuf := [h], cNeed := 0 } → ∃ t, hostStep s = .next t ∧
      AnsweredOnly s t [(0x06#8 ++ h.extractLsb' 0 24 : Word)])) ∧
  (∀ (h w : Word) (before after : List Word) (s : State), h &&& 0xFF000FFF = 0x11000000 →
    s.port = { cBuf := h :: (before ++ w :: after), cNeed := 0 } →
    (before ++ w :: after).length = (h.extractLsb' 12 12).toNat →
    (∀ v ∈ before, v.extractLsb' 24 8 = 0) → w.extractLsb' 24 8 ≠ 0 →
    ∃ t, hostStep s = .next t ∧ AnsweredOnly s t [(0x06#8 ++ w.extractLsb' 0 24 : Word)]) ∧
  (∀ o : Opcode, (0x00000000#32) &&& headerMask o ≠ headerMatch o)

/-- The worked encodings of R126, read and written. -/
def Obligations.WorkedEncodings : Prop :=
  ∀ p ∈ ([([0x100050C8], .setChannel 5 200), ([0x1000000A], .setChannel 0 10), ([0x1020100A], .setChannel 513 10),
      ([0x10001FFF], .setChannel 1 (-1)), ([0x10001100], .setChannel 1 256), ([0x1004100A], .setChannel 65 10),
      ([0x11002000, 0x000010FF, 0x00002080], .setChannels [⟨1, 255⟩, ⟨2, 128⟩]),
      ([0x12005000], .getChannel 5), ([0x13000000], .blackout), ([0x14000007], .setAll 7),
      ([0x20000001], .setPreset 1), ([0x21000000], .setAudioReactive false), ([0x2220001E], .setAddress 2 30),
      ([0x23000000], .getStatus), ([0x2400007C], .setBpm 124), ([0x26000000, 0, 0], .trigger 0),
      ([0x27000000, 0x0007A120, 0], .update 500000), ([0x25000000, 0x2A05F200, 0x00000001], .beat 5000000000),
      ([0x30000000], .getVolume), ([0x40000007], .start 7), ([0x41000004], .stop 4)] : List (List Word × Instr)),
    decode p.1 = .ok p.2 ∧ encode p.2 = p.1

/-- The assembler (R121, R125): a number is taken where it fits its field, whatever the form, and refused where it does
not; the commands without operands, the pseudo-instructions, the names of fixtures, loops and presets, hexadecimal
numbers and comments. What it accepts can be carried by command words. White space, digit case and leading zeros are
the model's reading of the text (log 15); the lines here are written with one space and decimal digits but for one
form. -/
def Obligations.AssemblerReadsLines : Prop :=
  ∀ c : Cfg,
    (∀ (line : String) (i : Instr), assembleLine c line = some i → i.wellFormed = true) ∧
    (∀ line comment : String, ';' ∉ line.toList → assembleLine c (line ++ ";" ++ comment) = assembleLine c line) ∧
    (∀ i v : Int, assembleLine c ("set_channel " ++ toString i ++ ", " ++ toString v) =
      (fieldOf? 12 i).bind fun x => (valueOf? v).map fun y => .setChannel x y) ∧
    (∀ pairs : List (Int × Int),
      (pairs.length ≤ 4095 ∧
          (∀ p ∈ pairs, 0 ≤ p.1 ∧ p.1 < 4096 ∧ -2048 ≤ p.2 ∧ p.2 ≤ 2047) →
        assembleLine c ("set_channels " ++
            ", ".intercalate (pairs.map fun p => toString p.1 ++ "=" ++ toString p.2)) =
          some (.setChannels (pairs.map fun p => ⟨BitVec.ofInt 12 p.1, BitVec.ofInt 12 p.2⟩))) ∧
      (¬(pairs.length ≤ 4095 ∧
          ∀ p ∈ pairs, 0 ≤ p.1 ∧ p.1 < 4096 ∧ -2048 ≤ p.2 ∧ p.2 ≤ 2047) →
        assembleLine c ("set_channels " ++
            ", ".intercalate (pairs.map fun p => toString p.1 ++ "=" ++ toString p.2)) = none)) ∧
    (∀ v : Int,
      assembleLine c ("get_channel " ++ toString v) = (fieldOf? 12 v).map .getChannel ∧
      assembleLine c ("set_all " ++ toString v) = (valueOf? v).map .setAll ∧
      assembleLine c ("set_preset #" ++ toString v) = (fieldOf? 8 v).map .setPreset ∧
      assembleLine c ("set_audio_reactive " ++ toString v) =
        (fieldOf? 1 v).map (fun b => .setAudioReactive (b == 1)) ∧
      assembleLine c ("set_bpm " ++ toString v) = (fieldOf? 16 v).map .setBpm ∧
      assembleLine c ("beat " ++ toString v) = (fieldOf? 64 v).map .beat ∧
      assembleLine c ("trigger " ++ toString v) = (fieldOf? 64 v).map .trigger ∧
      assembleLine c ("update " ++ toString v) = (fieldOf? 64 v).map .update ∧
      assembleLine c ("start " ++ toString v) = (fieldOf? 3 v).map .start ∧
      assembleLine c ("stop " ++ toString v) = (fieldOf? 3 v).map .stop) ∧
    (∀ n : Nat, assembleLine c ("get_channel 0x" ++ String.ofList (Nat.toDigits 16 n)) =
      (fieldOf? 12 n).map .getChannel) ∧
    (∀ f a : Int, assembleLine c ("set_address #" ++ toString f ++ ", " ++ toString a) =
      (fieldOf? 4 f).bind fun x => (fieldOf? 12 a).map fun y => .setAddress x y) ∧
    (∀ a : Int, ∀ p ∈ ([("panel_a", 0), ("panel_b", 1), ("bar", 2)] : List (String × BitVec 4)),
      assembleLine c ("set_address " ++ p.1 ++ ", " ++ toString a) = (fieldOf? 12 a).map (.setAddress p.2)) ∧
    (∀ p ∈ ([("capture", 1), ("tick", 2), ("tx", 4), ("capture|tick", 3), ("capture|tx", 5), ("tick|tx", 6),
        ("capture|tick|tx", 7)] : List (String × BitVec 3)),
      assembleLine c ("start " ++ p.1) = some (.start p.2) ∧ assembleLine c ("stop " ++ p.1) = some (.stop p.2)) ∧
    (∀ name : String, isOperand name.toList = true → name.toList.head? ≠ some '#' →
      (∀ k d, c.presetTable[k]? = some d → d.name = name →
        (∀ j e, j < k → c.presetTable[j]? = some e → e.name ≠ name) → k < 256 →
        assembleLine c ("set_preset " ++ name) = some (.setPreset (BitVec.ofNat 8 k))) ∧
      ((∀ d ∈ c.presetTable, d.name ≠ name) → assembleLine c ("set_preset " ++ name) = none)) ∧
    assembleLine c "blackout" = some .blackout ∧ assembleLine c "get_status" = some .getStatus ∧
    assembleLine c "get_volume" = some .getVolume ∧ assembleLine c "start_all" = some (.start 7) ∧
    assembleLine c "stop_all" = some (.stop 7) ∧ assembleLine c "audio_on" = some (.setAudioReactive true) ∧
    assembleLine c "audio_off" = some (.setAudioReactive false)

/-! ## One step, the command port and the responses -/

/-- A step makes the environment's next move; the HOST move with a complete command in C_BUF that decodes to `i` is
`exec i`, at the state in which that move is no longer to come (R100; log 1). -/
def Obligations.StepRunsDecoded : Prop :=
  (∀ s : State, step s = perform s.nextMove s.takeMove) ∧
  (∀ (s : State) (i : Instr), s.nextMove = .host → s.port.cBuf ≠ [] → s.port.cNeed = 0 →
    decode s.port.cBuf = .ok i → step s = exec i s.takeMove)

/-- The words of a command arriving one by one at an empty port leave it complete after the last word and not before,
and change nothing else (R100, 10_state.md R47). -/
def Obligations.WordsAssemble : Prop :=
  ∀ (s : State) (i : Instr), i.wellFormed = true → s.port = readyPort →
    (encode i).foldl State.receiveWord s = { s with port := { cBuf := encode i, cNeed := 0 } } ∧
    ((encode i).foldl State.receiveWord s).commandReady = true ∧
    ∀ k, k < (encode i).length → (((encode i).take k).foldl State.receiveWord s).commandReady = false

/-- A partly received command is held: the HOST agent has no step, and the next word is taken as an operand
(70_reset_and_hazards.md R375, 10_state.md R47; HOST's step as a move of its own: log 9). -/
def Obligations.PartialCommandHeld : Prop :=
  ∀ s : State, s.port.cBuf ≠ [] → s.port.cNeed ≠ 0 → perform .host s = .next s ∧
    ∀ w : Word, perform (.word w) s =
      .next { s with port := { cBuf := s.port.cBuf ++ [w], cNeed := s.port.cNeed - 1 } }

/-- Every command that completes appends its one response, of one word or, for GET_STATUS, three, and leaves the port
ready; a response of three words is a success (R112). No other move but a reset writes RESP (44_orchestrator.md
R301). -/
def Obligations.OneResponsePerCommand : Prop :=
  (∀ (i : Instr) (s t : State), exec i s = .next t → t.port = readyPort ∧ ∃ w rest, t.resp = s.resp ++ w :: rest ∧
    (rest = [] ∨ (i = .getStatus ∧ rest.length = 2 ∧ w.extractLsb' 24 8 = 0))) ∧
  (∀ s t : State, step s = .next t → s.nextMove ≠ .host → s.nextMove ≠ .reset → t.resp = s.resp)

/-- An error response leaves everything but the port and RESP as it was; START may have asked devices, and without
DATA bit 2 it may have started other loops (60_exceptions.md R323, R334). -/
def Obligations.ErrorsLeaveState : Prop :=
  ∀ (i : Instr) (s t : State) (w : Word), exec i s = .next t → t.resp = s.resp ++ [w] → w.extractLsb' 24 8 ≠ 0 →
    ((∀ mask, i ≠ .start mask) → AnsweredOnly s t [w]) ∧
    (∀ mask, i = .start mask → w.getLsbD 2 = true →
      t = { s with env := t.env, port := readyPort, resp := s.resp ++ [w] })

/-! ## Reset, the registers' invariants, and the machine as a whole -/

/-- The reset table (10_state.md R54), with the default configuration's entries; that FRAMES starts empty and that the
model's bit counter starts at 0 is the model's choice (log 19). -/
def Obligations.ResetState : Prop :=
  CleanReset State.reset ∧ State.reset.eng.addr = ⟨1, 4, 7⟩ ∧ State.reset.eng.bpm = 120 ∧
    State.reset.eng.base = ⟨⟨0, 0, 0⟩, ⟨0, 0, 0⟩, ⟨0, 0, 0⟩⟩

/-- The reset input gives every register its reset value, whatever was going on, and leaves CFG as it is
(70_reset_and_hazards.md R360; the reset input as a move: log 17; FRAMES and the model's bit counter: log 19). -/
def Obligations.ResetInput : Prop :=
  ∀ s : State, s.nextMove = .reset → ∃ t, step s = .next t ∧ CleanReset t ∧ t.cfg = s.cfg

/-- The state after reset meets every invariant of the registers. -/
def Obligations.ResetLegal : Prop := Legal State.reset

/-- Every step keeps the invariants of the registers: the ranges of 10_state.md, the canonical channel space, the
frame shape, the loops' life cycle, the deadlines (`Legal`, Safety.lean; the bound on ERR_PAUSE_US and the bit counter
are the model's, logs 11 and 7). -/
def Obligations.StepKeepsLegal : Prop := ∀ s t : State, Legal s → step s = .next t → Legal t

/-- No step faults from a state that meets the invariants: the conditions the spec excludes, which the
model names as faults (log 8), never arise (60_exceptions.md R336). -/
def Obligations.LegalNeverFaults : Prop := ∀ s : State, Legal s → Faultless (step s)

/-- Every step keeps the channel space in canonical form and inside 1..N (20_memory.md R70, R71). -/
def Obligations.ChannelSpaceStaysCanonical : Prop :=
  ∀ s t : State, Memory.wf s.ch = true → Memory.within s.n s.ch = true → step s = .next t →
    Memory.wf t.ch = true ∧ Memory.within t.n t.ch = true

/-- Which agents write which registers (10_state.md R21 to R53): CFG never changes; TIME changes as the environment
advances it; D_ registers change in CAPTURE's steps, and D_FAIL_CNT at START; the mailbox in CAPTURE's; E_ registers
in commands, ticks and DELIVER; CH in commands and ticks; T_SNAP, T_SLOT, T_CYCLE_START, LINE_TRACE, FRAMES and the
model's bit counter (log 7) in TX's steps; T_PHASE and T_NEXT_START in TX's, and at START, which makes them IDLE and
TIME; T_VIRTUAL at START, and once 1 it stays 1; LINE in TX's and, in a failing cycle, by the environment (log 6);
K_NEXT_TICK in TICK, and at START, which makes it TIME; RUN and STOP of a loop in commands and in the loop's own
steps; FA_ registers as samples arrive, at CAPTURE's stop and at START; C_BUF as words arrive and at the HOST step; LOG
in commands, CAPTURE's and TX's steps; RESP in commands. Agents as moves are the model's form (log 1); that a
read failure leaves the FA_ registers is its choice (log 22). -/
def Obligations.AgentsOwnTheirRegisters : Prop :=
  ∀ s t : State, step s = .next t → s.nextMove ≠ .reset →
    t.cfg = s.cfg ∧
    ((∀ d, s.nextMove ≠ .time d) → t.time = s.time) ∧
    (s.nextMove ≠ .capture → t.det = s.det ∨ s.nextMove = .host ∧ t.det = { s.det with failCnt := 0 }) ∧
    (s.nextMove ≠ .capture → t.mbox = s.mbox) ∧
    (s.nextMove ≠ .host → s.nextMove ≠ .ticker → s.nextMove ≠ .capture → t.eng = s.eng) ∧
    (s.nextMove ≠ .host → s.nextMove ≠ .ticker → t.ch = s.ch) ∧
    (s.nextMove ≠ .tx → t.tx.snap = s.tx.snap ∧ t.tx.slot = s.tx.slot ∧ t.tx.cycleStart = s.tx.cycleStart ∧
      t.tx.lineTrace = s.tx.lineTrace ∧ t.tx.frames = s.tx.frames ∧ t.tx.bit = s.tx.bit) ∧
    (s.nextMove ≠ .tx → t.tx.phase = s.tx.phase ∧ t.tx.nextStart = s.tx.nextStart ∨
      s.nextMove = .host ∧ s.loops.runTx = false ∧ t.loops.runTx = true ∧ t.tx.phase = .idle ∧
        t.tx.nextStart = s.time) ∧
    (s.nextMove ≠ .host → t.tx.virtualSink = s.tx.virtualSink) ∧
    (s.tx.virtualSink = true → t.tx.virtualSink = true) ∧
    (s.nextMove ≠ .tx → t.tx.line = s.tx.line ∨ (∃ b, s.nextMove = .lineNoise b) ∧ s.sinkOk = false) ∧
    (s.nextMove ≠ .ticker → t.loops.nextTick = s.loops.nextTick ∨
      s.nextMove = .host ∧ s.loops.runTick = false ∧ t.loops.runTick = true ∧ t.loops.nextTick = s.time) ∧
    (s.nextMove ≠ .host → s.nextMove ≠ .capture →
      t.loops.runCapture = s.loops.runCapture ∧ t.loops.stopCapture = s.loops.stopCapture) ∧
    (s.nextMove ≠ .host → s.nextMove ≠ .ticker →
      t.loops.runTick = s.loops.runTick ∧ t.loops.stopTick = s.loops.stopTick) ∧
    (s.nextMove ≠ .host → s.nextMove ≠ .tx →
      t.loops.runTx = s.loops.runTx ∧ t.loops.stopTx = s.loops.stopTx) ∧
    ((∀ x, s.nextMove ≠ .sample x) → s.nextMove ≠ .capture → s.nextMove ≠ .host → t.fa = s.fa) ∧
    ((∀ w, s.nextMove ≠ .word w) → s.nextMove ≠ .host → t.port = s.port) ∧
    (s.nextMove ≠ .host → s.nextMove ≠ .capture → s.nextMove ≠ .tx → t.log = s.log) ∧
    (s.nextMove ≠ .host → t.resp = s.resp)

/-- LOG grows by at most one record a step, with the TIME of the step, and only for the five events of
60_exceptions.md R325; no record carries agent HOST or TICKER (R326). The log port shows a record as three words
(30_encoding.md R118). -/
def Obligations.LogRecordsTheFiveEvents : Prop :=
  (∀ r : LogRecord, ∃ w, logWords r = [w, r.time.extractLsb' 0 32, r.time.extractLsb' 32 32] ∧
    w.extractLsb' 0 16 = r.info ∧
    (r.agent, w.extractLsb' 16 8) ∈
      ([(.host, 0), (.capture, 1), (.ticker, 2), (.tx, 3)] : List (Agent × BitVec 8)) ∧
    (r.code, w.extractLsb' 24 8) ∈
      ([(.ok, 0), (.validationError, 1), (.unknownPreset, 2), (.deviceError, 3), (.transientIOError, 4),
        (.overrunWarning, 5), (.illegalCommand, 6)] : List (ResultCode × BitVec 8))) ∧
  ∀ s t : State, step s = .next t → s.nextMove ≠ .reset →
    t.log = s.log ∨ ∃ r, t.log = s.log ++ [r] ∧ r.time = s.time ∧
      ((s.nextMove = .capture ∧ r.code = .transientIOError ∧ r.agent = .capture ∧
          r.info.toNat = t.det.failCnt.toNat ∧ t.det.failCnt.toNat < s.cfg.audioFailLimit) ∨
        (s.nextMove = .capture ∧ r.code = .deviceError ∧ r.agent = .capture ∧
          r.info.toNat = t.det.failCnt.toNat ∧ s.cfg.audioFailLimit ≤ t.det.failCnt.toNat ∧
          t.loops.runCapture = false) ∨
        (s.nextMove = .tx ∧ r.code = .transientIOError ∧ r.agent = .tx ∧ r.info = 0 ∧ s.tx.phase = .mab ∧
          s.sinkOk = false) ∨
        (s.nextMove = .tx ∧ r.code = .overrunWarning ∧ r.agent = .tx ∧
          periodUs s.cfg < s.time.toNat - s.tx.cycleStart.toNat ∧
          r.info.toNat = min 65535 (s.time.toNat - s.tx.cycleStart.toNat - periodUs s.cfg)) ∨
        (s.nextMove = .host ∧ r.code = .deviceError ∧ r.agent = .tx ∧ r.info = 1 ∧ s.tx.virtualSink = false ∧
          t.tx.virtualSink = true))

/-- TIME moves only by the environment's advance, never backwards, never past the deadline of an enabled timed step
(10_state.md R22, 44_orchestrator.md R302, R308); where it would reach 2^63 the model ends, the model's own choice
(93_implementation_defined.md U13, log 5). -/
def Obligations.TimeAdvances : Prop :=
  (∀ s t : State, step s = .next t → s.nextMove ≠ .reset → s.time.toNat ≤ t.time.toNat ∧
    (t.time ≠ s.time → ∃ d, s.nextMove = .time d ∧ t = { s.takeMove with time := t.time } ∧
      t.time.toNat = s.time.toNat + d ∧ t.time.toNat < 2 ^ 63 ∧
      (s.loops.runTick = true → t.time.toNat ≤ s.loops.nextTick.toNat + s.cfg.tickJitterUs) ∧
      (s.loops.runTx = true → t.time.toNat ≤ txDue s))) ∧
  (∀ (s : State) (d : Nat), s.nextMove = .time d → 2 ^ 63 ≤ s.time.toNat + d → s.loops.runTick = false →
    s.loops.runTx = false → step s = .refused .timeBeyondPremise)

/-! ## The transport's commands (43_transport.md) -/

/-- SET_CHANNEL (R260). -/
def Obligations.SetChannel : Prop :=
  (∀ (idx val : BitVec 12) (s : State), Memory.wf s.ch = true →
    (1 ≤ idx.toNat ∧ idx.toNat ≤ s.n ∧ 0 ≤ val.toInt ∧ val.toInt ≤ 255 →
      ∃ t, exec (.setChannel idx val) s = .next t ∧ AnsweredChannels s t [0] ∧
        ((t.channel idx.toNat).toNat : Int) = val.toInt ∧ ∀ j, j ≠ idx.toNat → t.channel j = s.channel j) ∧
    (idx.toNat < 1 ∨ s.n < idx.toNat ∨ val.toInt < 0 ∨ 255 < val.toInt →
      ∃ t, exec (.setChannel idx val) s = .next t ∧ AnsweredOnly s t [(0x01#8 ++ idx ++ val : Word)]))

/-- SET_CHANNELS (R261): every pair is checked before any is written, the first bad one is reported, the last pair of an
index wins. -/
def Obligations.SetChannels : Prop :=
  (∀ (pairs : List Pair) (s : State), Memory.wf s.ch = true → (∀ p ∈ pairs, pairInRange s.n p) →
    ∃ t, exec (.setChannels pairs) s = .next t ∧ AnsweredChannels s t [0] ∧
      (∀ before p after, pairs = before ++ p :: after → (∀ q ∈ after, q.idx ≠ p.idx) →
        ((t.channel p.idx.toNat).toNat : Int) = p.val.toInt) ∧
      ∀ j, (∀ p ∈ pairs, p.idx.toNat ≠ j) → t.channel j = s.channel j) ∧
  (∀ (before after : List Pair) (p : Pair) (s : State), (∀ q ∈ before, pairInRange s.n q) → ¬pairInRange s.n p →
    ∃ t, exec (.setChannels (before ++ p :: after)) s = .next t ∧
      AnsweredOnly s t [(0x01#8 ++ p.idx ++ p.val : Word)])

/-- GET_CHANNEL (R262). -/
def Obligations.GetChannel : Prop :=
  (∀ (idx : BitVec 12) (s : State),
    (1 ≤ idx.toNat ∧ idx.toNat ≤ s.n → ∃ t, exec (.getChannel idx) s = .next t ∧
      AnsweredOnly s t [(s.channel idx.toNat).zeroExtend 32]) ∧
    (idx.toNat < 1 ∨ s.n < idx.toNat → ∃ t, exec (.getChannel idx) s = .next t ∧
      AnsweredOnly s t [(0x01#8 ++ idx ++ 0#12 : Word)])) ∧
  ZeroBitsRefused .getChannel 0x00000FFF

/-- BLACKOUT and SET_ALL (R263, R264). -/
def Obligations.FillCommands : Prop :=
  (∀ s : State, ∃ t, exec .blackout s = .next t ∧ AnsweredChannels s t [0] ∧
    ∀ j, t.channel j = if 1 ≤ j ∧ j ≤ s.n then 0 else s.channel j) ∧
  (∀ (val : BitVec 12) (s : State), 0 ≤ val.toInt ∧ val.toInt ≤ 255 →
    ∃ t, exec (.setAll val) s = .next t ∧ AnsweredChannels s t [0] ∧
      ∀ j, t.channel j = if 1 ≤ j ∧ j ≤ s.n then BitVec.ofInt 8 val.toInt else s.channel j) ∧
  (∀ (val : BitVec 12) (s : State), val.toInt < 0 ∨ 255 < val.toInt →
    ∃ t, exec (.setAll val) s = .next t ∧ AnsweredOnly s t [(0x01#8 ++ 0#12 ++ val : Word)]) ∧
  ZeroBitsRefused .blackout 0x00FFFFFF ∧ ZeroBitsRefused .setAll 0x00FFF000

/-- The testable buffer properties (R265). -/
def Obligations.BufferProperties : Prop :=
  ∀ s : State, Memory.wf s.ch = true →
    (∀ idx val : BitVec 12, 1 ≤ idx.toNat → idx.toNat ≤ s.n → 0 ≤ val.toInt → val.toInt ≤ 255 →
      ∃ t u, exec (.setChannel idx val) s = .next t ∧ exec (.getChannel idx) t = .next u ∧
        u.resp = s.resp ++ [0, BitVec.ofInt 32 val.toInt]) ∧
    (∀ idx val : BitVec 12, ¬(1 ≤ idx.toNat ∧ idx.toNat ≤ s.n ∧ 0 ≤ val.toInt ∧ val.toInt ≤ 255) →
      ∃ t, exec (.setChannel idx val) s = .next t ∧ ∀ i, t.channel i = s.channel i) ∧
    (∃ t, exec .blackout s = .next t ∧ ∀ idx : BitVec 12, 1 ≤ idx.toNat → idx.toNat ≤ s.n →
      ∃ u, exec (.getChannel idx) t = .next u ∧ u.resp = t.resp ++ [0]) ∧
    (s.n = 64 → ∃ t, exec (.setChannel 65 10) s = .next t ∧ t.resp = s.resp ++ [0x0104100A])

/-- No command but START and STOP depends on the transmit loop: neither its registers, nor T_VIRTUAL, nor the run flags
change what it does (R270). -/
def Obligations.CommandsIgnoreTransmit : Prop :=
  ∀ (i : Instr) (s t : State) (x : Transmit) (l : Loops), (∀ mask, i ≠ .start mask ∧ i ≠ .stop mask) →
    exec i s = .next t → t.tx = s.tx ∧ t.loops = s.loops ∧
      exec i { s with tx := x, loops := l } = .next { t with tx := x, loops := l }

/-! ## The engine's commands (41_engine_control.md) -/

/-- SET_PRESET (R180). -/
def Obligations.SetPreset : Prop :=
  (∀ (id : BitVec 8) (d : Descriptor) (s : State), s.cfg.presetTable[id.toNat]? = some d →
    exec (.setPreset id) s = .next { s with
      eng := { s.eng with preset := id, base := d.base, envelope := 65536, toggle := false, rot := 0, beatCount := 0 }
      port := readyPort, resp := s.resp ++ [0] }) ∧
  (∀ (id : BitVec 8) (s : State), s.cfg.presetTable.length ≤ id.toNat →
    ∃ t, exec (.setPreset id) s = .next t ∧ AnsweredOnly s t [(0x02#8 ++ 0#16 ++ id : Word)]) ∧
  ZeroBitsRefused .setPreset 0x00FFFF00

/-- SET_AUDIO_REACTIVE (R185). -/
def Obligations.SetAudioReactive : Prop :=
  (∀ (en : Bool) (s : State), exec (.setAudioReactive en) s =
    .next { s with eng := { s.eng with audioReactive := en }, port := readyPort, resp := s.resp ++ [0] }) ∧
  ZeroBitsRefused .setAudioReactive 0x00FFFFFE

/-- SET_ADDRESS (R186), N being at most 512 as in every legal configuration. -/
def Obligations.SetAddress : Prop :=
  (∀ (fix : BitVec 4) (addr : BitVec 12) (f : Fixture) (s : State), s.n ≤ 512 →
    (fix = 0 ∧ f = .panelA ∨ fix = 1 ∧ f = .panelB ∨ fix = 2 ∧ f = .bar) → 1 ≤ addr.toNat →
    addr.toNat + f.width - 1 ≤ s.n →
    ∃ t, exec (.setAddress fix addr) s = .next t ∧
      t = { s with eng := { s.eng with addr := t.eng.addr }, port := readyPort, resp := s.resp ++ [0] } ∧
      (PerFixture.get t.eng.addr f).toNat = addr.toNat ∧
      ∀ g, g ≠ f → PerFixture.get t.eng.addr g = PerFixture.get s.eng.addr g) ∧
  (∀ (fix : BitVec 4) (addr : BitVec 12) (s : State),
    (2 < fix.toNat ∨ addr.toNat < 1 ∨ fix.toNat < 2 ∧ s.n < addr.toNat + 3 - 1 ∨
      fix.toNat = 2 ∧ s.n < addr.toNat + 14 - 1) →
    ∃ t, exec (.setAddress fix addr) s = .next t ∧ AnsweredOnly s t [(0x01#8 ++ fix ++ 0#8 ++ addr : Word)]) ∧
  ZeroBitsRefused .setAddress 0x000FF000

/-- SET_BPM (R187). -/
def Obligations.SetBpm : Prop :=
  (∀ (bpm : BitVec 16) (s : State), bpm ≠ 0 → exec (.setBpm bpm) s =
    .next { s with eng := { s.eng with bpm := bpm }, port := readyPort, resp := s.resp ++ [0] }) ∧
  (∀ s : State, ∃ t, exec (.setBpm 0) s = .next t ∧ AnsweredOnly s t [0x01000000]) ∧
  ZeroBitsRefused .setBpm 0x00FF0000

/-- GET_STATUS (R188): the tempo and the age of the last processed beat, all ones if there was none, 0 if it lies in the
future. -/
def Obligations.GetStatus : Prop :=
  (∀ s : State, ∃ (t : State) (age : Time), exec .getStatus s = .next t ∧
    AnsweredOnly s t [(0#16 ++ s.eng.bpm : Word), age.extractLsb' 0 32, age.extractLsb' 32 32] ∧
    (s.eng.lbValid = false → age.toNat = 2 ^ 64 - 1) ∧
    (s.eng.lbValid = true → age.toNat = s.time.toNat - s.eng.lastBeat.toNat)) ∧
  ZeroBitsRefused .getStatus 0x00FFFFFF

/-- BEAT (R190): ignored with audio-reactive mode off, under the blackout preset and inside the debounce; else
processed (the list of coming draws is the model's form, log 2). -/
def Obligations.Beat : Prop :=
  (∀ (ts : Time) (d : Descriptor) (s : State), ActiveIs s d →
    (s.eng.audioReactive = false ∨ d.kind = .blackout ∨
        s.eng.lbValid = true ∧ ts.toNat - s.eng.lastBeat.toNat ≤ 200000 →
      ∃ t, exec (.beat ts) s = .next t ∧ AnsweredOnly s t [0]) ∧
    (s.eng.audioReactive = true → d.kind ≠ .blackout →
      (s.eng.lbValid = false ∨ 200000 < ts.toNat - s.eng.lastBeat.toNat) →
      ∃ t, exec (.beat ts) s = .next t ∧ AnsweredEngine s t [1] ∧ t.ch = s.ch ∧ BeatProcessed s d ts t.eng)) ∧
  ZeroBitsRefused .beat 0x00FFFFFF

/-- TRIGGER (R191): as BEAT, but for the audio-reactive gate (the list of coming draws is the model's form, log 2). -/
def Obligations.Trigger : Prop :=
  (∀ (ts : Time) (d : Descriptor) (s : State), ActiveIs s d →
    (d.kind = .blackout ∨ s.eng.lbValid = true ∧ ts.toNat - s.eng.lastBeat.toNat ≤ 200000 →
      ∃ t, exec (.trigger ts) s = .next t ∧ AnsweredOnly s t [0]) ∧
    (d.kind ≠ .blackout → (s.eng.lbValid = false ∨ 200000 < ts.toNat - s.eng.lastBeat.toNat) →
      ∃ t, exec (.trigger ts) s = .next t ∧ AnsweredEngine s t [1] ∧ t.ch = s.ch ∧ BeatProcessed s d ts t.eng)) ∧
  ZeroBitsRefused .trigger 0x00FFFFFF

/-- The engine's beat clock (R195): over any run without a reset E_LB_VALID never returns to 0, E_LAST_BEAT never
decreases, and two processed beats lie more than the debounce apart, whatever mixture of detector beats, commands and
synthesized beats they come from. -/
def Obligations.BeatClock : Prop :=
  ∀ s t : State, RunsTo s t → s.eng.lbValid = true → t.eng.lbValid = true ∧
    (t.eng.lastBeat = s.eng.lastBeat ∨ s.eng.lastBeat.toNat + 200000 < t.eng.lastBeat.toNat)

/-! ## Rendering (42_engine_render.md) -/

/-- UPDATE (R210, R211): it always answers, a beat is synthesized exactly when one is due and passes ON_BEAT's guards, the
decay follows, E_LAST_TICK is noted, and channels no fixture owns keep their values (the list of coming draws is the
model's form, log 2). -/
def Obligations.Update : Prop :=
  (∀ (s : State) (d : Descriptor) (now : Time), Renderable s d →
    ∃ t e b, exec (.update now) s = .next t ∧ (b = true ↔ SynthesizesAt s d now) ∧
      AnsweredEngine s t [if b then 1 else 0] ∧ Updated s t d now e ∧
      (d.kind ≠ .glitch → ¬SynthesizesAt s d now → t.env = s.env)) ∧
  ZeroBitsRefused .update 0x00FFFFFF

/-- The blackout preset (R212): every channel a fixture owns becomes 0, nothing else but E_LAST_TICK changes. -/
def Obligations.UpdateBlackout : Prop :=
  ∀ (s : State) (d : Descriptor) (now : Time), Renderable s d → d.kind = .blackout →
    ∃ t, exec (.update now) s = .next t ∧
      t = { s with
        ch := t.ch, eng := { s.eng with lastTick := now }, port := readyPort, resp := s.resp ++ [0] } ∧
      UnownedSame s t s.eng.addr ∧ ∀ i, ownedCell s.eng.addr i = true → t.channel i = 0

/-- PULSE_DECAY and CYCLIC_PALETTE (R220, R227), at the envelope before the decay (a synthesized beat's draws: log 2). -/
def Obligations.UpdateDecayKinds : Prop :=
  ∀ (s : State) (d : Descriptor) (now : Time), Renderable s d →
    (d.kind = .pulseDecay → ∃ t e, exec (.update now) s = .next t ∧ Updated s t d now e ∧
      ShowsLook t s.eng.addr ⟨(e.base.panelA, e.envelope.toNat), (e.base.panelB, e.envelope.toNat),
        (e.base.bar, e.envelope.toNat)⟩) ∧
    (d.kind = .cyclicPalette → ∃ t e c0 c1, exec (.update now) s = .next t ∧ Updated s t d now e ∧
      d.pairs[e.beatCount.toNat / 2 % 4]? = some (c0, c1) ∧
      ShowsLook t s.eng.addr ⟨(c0, e.envelope.toNat), (c1, e.envelope.toNat), (c0, e.envelope.toNat)⟩)

/-- SINE_BREATH and CROSSFADE (R221, R229), over the sine of R214 (log 4; a synthesized beat's draws: log 2). -/
def Obligations.UpdateSineKinds : Prop :=
  ∀ (s : State) (d : Descriptor) (now : Time), Renderable s d →
    (d.kind = .sineBreath → ∃ (t : State) (e : Engine) (p b : Nat), exec (.update now) s = .next t ∧
      Updated s t d now e ∧ p = 16 * (60000000 / s.eng.bpm.toNat) ∧
      (b : Int) = (425 * 32767 + 375 * sine (now.toNat % p * 65536 / p)) * 65536 / (1000 * 32767) ∧
      ShowsLook t s.eng.addr ⟨(e.base.panelA, b), (e.base.panelB, b), (e.base.bar, b)⟩) ∧
    (d.kind = .crossfade → ∃ (t : State) (e : Engine) (m : Nat) (c : Color), exec (.update now) s = .next t ∧
      Updated s t d now e ∧
      (m : Int) = (32767 + sine (now.toNat % d.periodUs * 65536 / d.periodUs)) * 65536 / 65534 ∧
      c.r.toNat = (e.base.panelA.r.toNat * (65536 - m) + e.base.panelB.r.toNat * m) / 65536 ∧
      c.g.toNat = (e.base.panelA.g.toNat * (65536 - m) + e.base.panelB.g.toNat * m) / 65536 ∧
      c.b.toNat = (e.base.panelA.b.toNat * (65536 - m) + e.base.panelB.b.toNat * m) / 65536 ∧
      ShowsLook t s.eng.addr ⟨(c, 65536), (c, 65536), (c, 65536)⟩)

/-- RAINBOW_HUE and STROBE (R222, R223); the hue conversion is stated in `Numerics` (log 18; a
synthesized beat's draws: log 2). -/
def Obligations.UpdateTimeKinds : Prop :=
  ∀ (s : State) (d : Descriptor) (now : Time), Renderable s d →
    (d.kind = .rainbowHue → ∃ t e h, exec (.update now) s = .next t ∧ Updated s t d now e ∧
      h = now.toNat % d.periodUs * 65536 / d.periodUs ∧
      ShowsLook t s.eng.addr ⟨(hue2rgb h, 65536), (hue2rgb ((h + 6553) % 65536), 65536),
        (hue2rgb ((h + 13107) % 65536), 65536)⟩) ∧
    (d.kind = .strobe → ∃ t e b, exec (.update now) s = .next t ∧ Updated s t d now e ∧
      b = (if now.toNat * 30 / 1000000 % 2 = 0 then 65536 else 0) ∧
      ShowsLook t s.eng.addr ⟨(⟨255, 255, 255⟩, b), (⟨255, 255, 255⟩, b), (⟨255, 255, 255⟩, b)⟩)

/-- GLITCH (R225): one draw an UPDATE, shared by the fixtures, for whatever value it has; the list of coming draws is
the model's form (log 2). -/
def Obligations.UpdateGlitch : Prop :=
  ∀ (s : State) (d : Descriptor) (now : Time), Renderable s d → d.kind = .glitch →
    ∃ t e u b, exec (.update now) s = .next t ∧ Updated s t d now e ∧ u < 65536 ∧
      b = (if u < 3277 then 65536 else 3276) ∧
      ShowsLook t s.eng.addr ⟨(e.base.panelA, b), (e.base.panelB, b), (e.base.bar, b)⟩ ∧
      (d.onBeat ≠ .randomize → t.env.drawsMade = s.env.drawsMade + 1 ∧
        ∀ u0 rest, s.env.draws = u0 :: rest → u = u0 % 65536 ∧ t.env.draws = rest)

/-- ALTERNATING and TWO_TONE_FLASH (R226, R228; a synthesized beat's draws: log 2). -/
def Obligations.UpdateToggleKinds : Prop :=
  ∀ (s : State) (d : Descriptor) (now : Time), Renderable s d →
    (d.kind = .alternating → ∃ t e, exec (.update now) s = .next t ∧ Updated s t d now e ∧
      ShowsLook t s.eng.addr ⟨(e.base.panelA, if e.toggle = false then 65536 else 0),
        (e.base.panelB, if e.toggle = false then 0 else 65536), (e.base.bar, 0)⟩) ∧
    (d.kind = .twoToneFlash → ∃ t e c0 c1 b, exec (.update now) s = .next t ∧ Updated s t d now e ∧
      d.pairs[e.toggle.toNat]? = some (c0, c1) ∧
      b = (if d.alarm = false ∨ now.toNat * d.flashHz / 1000000 % 2 = 0 then 65536 else 0) ∧
      ShowsLook t s.eng.addr ⟨(c0, b), (c1, b), (c0, b)⟩)

/-- The envelope after a beat (R230): the first values, non-zero for the first 60 UPDATEs, 0 from the 61st on. -/
def Obligations.EnvelopeDecay : Prop :=
  decayed 65536 = 55705 ∧ decayed 55705 = 47349 ∧ decayed 47349 = 40246 ∧ decayed 40246 = 34209 ∧
    decayed 34209 = 29077 ∧ (∀ e : BitVec 17, (decayed e).toNat = e.toNat * 17 / 20) ∧
    ∀ k : Nat, decayed^[k] 65536 = 0 ↔ 60 ≤ k

/-- No residue of the old preset (41_engine_control.md R181): after SET_PRESET the next UPDATE shows the same on every
fixture, and leaves the same engine, whatever the modulation state, the channels and, where the new preset takes no
draw, the draws were before (the list of coming draws is the model's form, log 2). -/
def Obligations.NoResidueAfterSetPreset : Prop :=
  ∀ (r s a b t u : State) (id : BitVec 8) (now : Time) (d : Descriptor),
    r.cfg = s.cfg → SameBeatAndPlace r.eng s.eng → Memory.wf r.ch = true → Memory.wf s.ch = true →
    s.cfg.presetTable[id.toNat]? = some d →
    (r.env.draws = s.env.draws ∧ r.env.drawsMade = s.env.drawsMade ∨ d.kind ≠ .glitch ∧ d.onBeat ≠ .randomize) →
    exec (.setPreset id) r = .next a → exec (.setPreset id) s = .next b →
    exec (.update now) a = .next t → exec (.update now) b = .next u →
    t.eng = u.eng ∧ ∀ i, ownedCell s.eng.addr i = true → t.channel i = u.channel i

/-- The numerics functions and helpers keep their promises: SIN's range and anchors (R214 S1, S2), a phase below one turn
(R214), the six sectors of the hue conversion (R215), MAG's length and silence (40_beat_detector.md R142 P3, P4),
`scale` and its ends (00_scope.md R12), and the bins of a band (R143). SIN and MAG meet their bounds by the model's own
form of them (log 4); the hue conversion, MAG's length and the bins' frequencies are the spec's passages from general
knowledge (log 18). -/
def Obligations.Numerics : Prop :=
  (∀ p, -32767 ≤ sine p ∧ sine p ≤ 32767) ∧ sine 0 = 0 ∧ sine 16384 = 32767 ∧ sine 32768 = 0 ∧ sine 49152 = -32767 ∧
  (∀ (now : Time) (p : Nat), 1 ≤ p → phase now p < 65536) ∧
  (∀ h sector up : Nat, h < 65536 → sector = h * 6 / 65536 → up = 255 * (h * 6 % 65536) / 65536 →
    ([(255, up, 0), (255 - up, 255, 0), (0, 255, up), (0, 255 - up, 255), (up, 0, 255),
        (255, 0, 255 - up)] : List (Nat × Nat × Nat))[sector]? =
      some ((hue2rgb h).r.toNat, (hue2rgb h).g.toNat, (hue2rgb h).b.toNat)) ∧
  (∀ frame, (magnitudes frame).length = frame.length / 2 + 1) ∧
  (∀ frame, (∀ x ∈ frame, x = 0) → ∀ m ∈ magnitudes frame, m = 0) ∧
  (∀ c : Byte, scale c 65536 = c ∧ scale c 0 = 0) ∧
  (∀ (c : Byte) (b : Nat), b ≤ 65536 → (scale c b).toNat = c.toNat * b / 65536) ∧
  (∀ (c : Cfg) (k : Nat), k ∈ band c ↔ k ≤ c.frameLen / 2 ∧ c.bandLoHz * c.frameLen ≤ k * 44100 ∧
    k * 44100 ≤ c.bandHiHz * c.frameLen) ∧
  band Cfg.default = [1, 2, 3, 4] ∧ band Cfg.energyProfile = [1]

/-! ## The detector (40_beat_detector.md) -/

/-- From samples to beats. The frame assembler (10_state.md R49, 30_encoding.md R118): a sample changes nothing but the
assembler and the held items; FRAME_LEN samples, arriving at any times from an empty assembler, become one item with
the TIME of the first as its capture time, and the assembler is empty again (how the items are held: log 13). PUSH_FRAME
(R140, R144 to R149, R151): a frame of the right length, taken by the capture loop; the magnitudes and the band are
those of logs 4 and 18. -/
def Obligations.PushFrame : Prop :=
  (∀ (s : State) (x : Sample), ∃ t, perform (.sample x) s = .next t ∧
    t = { s with fa := t.fa, env := { s.env with audio := t.env.audio } } ∧
    t.fa.tcap = (if s.fa.cnt = 0 then s.time else s.fa.tcap) ∧ t.fa.buf = s.fa.buf.take s.fa.cnt ++ [x] ∧
    (s.fa.cnt + 1 < s.cfg.frameLen → t.fa.cnt = s.fa.cnt + 1 ∧ t.env.audio = s.env.audio) ∧
    (s.cfg.frameLen ≤ s.fa.cnt + 1 →
      t.fa.cnt = 0 ∧ t.env.audio = s.env.audio ++ [.frame t.fa.tcap t.fa.buf])) ∧
  (∀ (s : State) (t0 : Time) (x0 : Sample) (rest : List (Time × Sample)), s.fa.cnt = 0 →
    rest.length + 1 = s.cfg.frameLen → ∃ u,
      u = ((t0, x0) :: rest).foldl (fun v p => assemble p.2 { v with time := p.1 }) s ∧
      u.env.audio = s.env.audio ++ [.frame t0 (x0 :: rest.map (·.2))] ∧ u.fa.cnt = 0) ∧
  ∀ (s : State) (tCap : Time) (frame : List Sample) (rest : List AudioItem), s.cfg.Wf → s.mbox.valid = false →
    s.loops.runCapture = true → s.loops.stopCapture = false → s.env.audio = .frame tCap frame :: rest →
    tCap.toNat ≤ s.time.toNat → frame.length = s.cfg.frameLen →
    ∃ t p x sig, perform .capture s = .next t ∧ IsFirstPeak frame p ∧ frame[p]? = some x ∧
      t = { s with det := t.det, mbox := t.mbox, env := { s.env with audio := rest } } ∧
      t.det.failCnt = 0 ∧ t.det.vol.toNat = x.toInt.natAbs ∧
      (s.cfg.detMethod = .flux → t.det.ePrev = s.det.ePrev ∧
        t.det.prevSpec = (band s.cfg).map (fun k => (magnitudes frame).getD k 0) ∧
        sig = ((band s.cfg).zipIdx.map fun k =>
          ((magnitudes frame).getD k.1 0).toNat - (s.det.prevSpec.getD k.2 0).toNat).sum) ∧
      (s.cfg.detMethod = .energy → t.det.prevSpec = s.det.prevSpec ∧
        t.det.ePrev.toNat = ((band s.cfg).map fun k => ((magnitudes frame).getD k 0).toNat).sum / (band s.cfg).length ∧
        (sig : Int) = max 0 (t.det.ePrev.toNat + ((t.det.ePrev.toNat : Int) - s.det.ePrev.toNat))) ∧
      t.det.hist.map (·.toNat) =
        (if s.cfg.histLen < s.det.hist.length + 1 then (s.det.hist.map (·.toNat) ++ [sig]).tail
          else s.det.hist.map (·.toNat) ++ [sig]) ∧
      (s.cfg.histMin ≤ t.det.hist.length ∧ threshold s.cfg t.det.hist < sig ∧
          (s.det.lbValid = false ∨ s.cfg.refractoryUs < tCap.toNat - s.det.lastBeat.toNat) →
        t.mbox.valid = true ∧ t.mbox.ts = BitVec.ofNat 64 (tCap.toNat + p * 1000000 / 44100) ∧
        t.det.lastBeat = t.mbox.ts ∧ t.det.lbValid = true) ∧
      (¬(s.cfg.histMin ≤ t.det.hist.length ∧ threshold s.cfg t.det.hist < sig ∧
          (s.det.lbValid = false ∨ s.cfg.refractoryUs < tCap.toNat - s.det.lastBeat.toNat)) →
        t.mbox = s.mbox ∧ t.det.lastBeat = s.det.lastBeat ∧ t.det.lbValid = s.det.lbValid)

/-- The adaptive threshold (R147), the median taken of any ascending arrangement of the history. -/
def Obligations.Threshold : Prop :=
  ∀ (c : Cfg) (h : List (BitVec 48)),
    (c.threshStat = .mean → threshold c h =
      (h.map (·.toNat)).sum / h.length * c.threshMultQ8 / 256 + c.threshFloor) ∧
    (c.threshStat = .median → ∀ l : List Nat, l.Perm (h.map (·.toNat)) → l.Pairwise (· ≤ ·) →
      (h.length % 2 = 1 → threshold c h =
        l.getD ((h.length - 1) / 2) 0 * c.threshMultQ8 / 256 + c.threshFloor) ∧
      (h.length % 2 = 0 → threshold c h =
        (l.getD (h.length / 2 - 1) 0 + l.getD (h.length / 2) 0) / 2 * c.threshMultQ8 / 256 + c.threshFloor))

/-- The detector's beats (R150): over any run without a reset D_LAST_BEAT never decreases and two emitted beats lie more
than the refractory interval apart. -/
def Obligations.RefractoryInterval : Prop :=
  ∀ s t : State, s.cfg.Wf → s.time.toNat < 2 ^ 63 → RunsTo s t → s.det.lbValid = true → t.det.lbValid = true ∧
    (t.det.lastBeat = s.det.lastBeat ∨ s.det.lastBeat.toNat + s.cfg.refractoryUs < t.det.lastBeat.toNat)

/-- The capture agent's order (R156, R157): a pending event is delivered first, as the engine's ON_BEAT with its response
dropped, and consumed; then the stop flag is looked at; a loop that does not run, or finds no item, has no step; a
frame of another length is taken and ignored, no register changes (R141). The event is delivered whatever RUN_CAPTURE
is (DEDUCED, log 14). -/
def Obligations.CaptureOrder : Prop :=
  ∀ s : State,
    (∀ d, s.mbox.valid = true → ActiveIs s d → ∃ u, exec (.beat s.mbox.ts) s = .next u ∧
      perform .capture s = .next { u with
        mbox := { s.mbox with valid := false }, port := s.port, resp := s.resp }) ∧
    (s.mbox.valid = false → s.loops.runCapture = true → s.loops.stopCapture = true →
      perform .capture s = .next { s with
        loops := { s.loops with runCapture := false, stopCapture := false }, fa := { s.fa with cnt := 0 } }) ∧
    (s.mbox.valid = false → s.loops.runCapture = false → perform .capture s = .next s) ∧
    (s.mbox.valid = false → s.loops.stopCapture = false → s.env.audio = [] → perform .capture s = .next s) ∧
    (∀ (tCap : Time) (frame : List Sample) (rest : List AudioItem), s.mbox.valid = false → s.loops.runCapture = true →
      s.loops.stopCapture = false → s.env.audio = .frame tCap frame :: rest → tCap.toNat ≤ s.time.toNat →
      frame.length ≠ s.cfg.frameLen → perform .capture s = .next { s with env := { s.env with audio := rest } })

/-- READ_FAIL (R159, R160); the list of held items is the model's form (log 13), and that a partly assembled frame stands
is its choice (log 22). -/
def Obligations.ReadFail : Prop :=
  ∀ (s : State) (rest : List AudioItem), s.mbox.valid = false → s.loops.runCapture = true →
    s.loops.stopCapture = false → s.env.audio = .fail :: rest →
    ∃ t r, perform .capture s = .next t ∧ t.det.failCnt.toNat = min 255 (s.det.failCnt.toNat + 1) ∧
      r.agent = .capture ∧ r.time = s.time ∧ r.info.toNat = t.det.failCnt.toNat ∧
      (s.cfg.audioFailLimit ≤ t.det.failCnt.toNat → r.code = .deviceError ∧
        t.loops = { s.loops with runCapture := false, stopCapture := false }) ∧
      (t.det.failCnt.toNat < s.cfg.audioFailLimit → r.code = .transientIOError ∧ t.loops = s.loops) ∧
      t = { s with
        det := { s.det with failCnt := t.det.failCnt }, loops := t.loops, env := { s.env with audio := rest }
        log := s.log ++ [r] }

/-- GET_VOLUME (R155). -/
def Obligations.GetVolume : Prop :=
  (∀ s : State, ∃ t, exec .getVolume s = .next t ∧ AnsweredOnly s t [s.det.vol.zeroExtend 32]) ∧
  ZeroBitsRefused .getVolume 0x00FFFFFF

/-! ## The transmit loop (43_transport.md) -/

/-- Line timing (R275, R277, R278, R283, 30_encoding.md R115): the durations, their lower bounds, and the eleven bits of
a slot. The character of start bit, eight data bits least significant first and two stop bits is the spec's passage from
general knowledge (log 18). -/
def Obligations.LineTiming : Prop :=
  bitUs = 4 ∧ slotUs = 44 ∧
  (∀ c : Cfg, c.breakMode = .trueBreak → lowUs c = 176 ∧ highUs c = 16) ∧
  (∀ c : Cfg, c.breakMode = .baudDrop → lowUs c = 9 * (1000000 / c.breakBaud) ∧
    highUs c = 2 * (1000000 / c.breakBaud)) ∧
  (∀ c : Cfg, c.Wf → 88 ≤ lowUs c ∧ 8 ≤ highUs c) ∧
  (∀ c : Cfg, periodUs c = 1000000 / c.txRateHz) ∧
  (∀ d : Byte, slotBits d = [false, d.getLsbD 0, d.getLsbD 1, d.getLsbD 2, d.getLsbD 3, d.getLsbD 4, d.getLsbD 5,
    d.getLsbD 6, d.getLsbD 7, true, true])

/-- TOP (R276, R277, R285, R286): the stop flag is honoured, the virtual sink keeps the cadence and nothing else, a real
cycle begins with the break; before T_NEXT_START there is no step. In a cycle that will fail the line is open (log 6);
a segment enters LINE_TRACE as it starts (log 21). -/
def Obligations.TransmitTop : Prop :=
  ∀ s : State, (s.tx.phase = .idle ∨ s.tx.phase = .sleep ∨ s.tx.phase = .pause) →
    (s.loops.runTx = false ∨ s.time.toNat < s.tx.nextStart.toNat → perform .tx s = .next s) ∧
    (s.loops.runTx = true → s.tx.nextStart.toNat ≤ s.time.toNat →
      (s.loops.stopTx = true → perform .tx s = .next { s with
        loops := { s.loops with runTx := false, stopTx := false }, tx := { s.tx with phase := .idle } }) ∧
      (s.loops.stopTx = false → s.tx.virtualSink = true → perform .tx s = .next { s with tx := { s.tx with
        cycleStart := s.time, nextStart := BitVec.ofNat 64 (s.time.toNat + periodUs s.cfg), phase := .sleep } }) ∧
      (s.loops.stopTx = false → s.tx.virtualSink = false → ∃ t, perform .tx s = .next t ∧
        t = { s with tx := { s.tx with
          cycleStart := s.time, phase := .breakLow, line := t.tx.line, lineTrace := t.tx.lineTrace } } ∧
        (s.sinkOk = true → t.tx.line = false ∧ t.tx.lineTrace = s.tx.lineTrace ++
          [{ level := false, start := s.time.toNat, duration := lowUs s.cfg }])))

/-- BREAK and MAB (R276, R278, R279, R282): the mark, exactly LOW_US after the cycle's start; then, HIGH_US later, the
snapshot of the whole of CH behind the start code, or the failed write; at any other TIME, or with RUN_TX = 0, there is
no step. In a cycle that will fail the line is open (log 6); a segment enters LINE_TRACE as it starts (log 21). -/
def Obligations.TransmitMarkAndSnapshot : Prop :=
  (∀ s : State, s.tx.phase = .breakLow →
    s.loops.runTx = false ∨ s.time.toNat ≠ s.tx.cycleStart.toNat + lowUs s.cfg → perform .tx s = .next s) ∧
  (∀ s : State, s.tx.phase = .mab →
    s.loops.runTx = false ∨ s.time.toNat ≠ s.tx.cycleStart.toNat + lowUs s.cfg + highUs s.cfg →
    perform .tx s = .next s) ∧
  ∀ s : State, s.loops.runTx = true →
    (s.tx.phase = .breakLow → s.time.toNat = s.tx.cycleStart.toNat + lowUs s.cfg → ∃ t, perform .tx s = .next t ∧
      t = { s with tx := { s.tx with phase := .mab, line := t.tx.line, lineTrace := t.tx.lineTrace } } ∧
      (s.sinkOk = true → t.tx.line = true ∧ t.tx.lineTrace = s.tx.lineTrace ++
        [{ level := true, start := s.time.toNat, duration := highUs s.cfg }])) ∧
    (s.tx.phase = .mab → s.time.toNat = s.tx.cycleStart.toNat + lowUs s.cfg + highUs s.cfg →
      (s.sinkOk = true → ∃ t, perform .tx s = .next t ∧
        t = { s with
          tx := { s.tx with snap := t.tx.snap, slot := 0, bit := 0, phase := .data }, env := s.askedSink.env } ∧
        t.tx.snap.length = s.n + 1 ∧ t.tx.snap[0]? = some 0 ∧
        ∀ i, 1 ≤ i → i ≤ s.n → t.tx.snap[i]? = some (s.channel i)) ∧
      (s.sinkOk = false → ∃ t, perform .tx s = .next t ∧
        t = { s with
          tx := { s.tx with
            line := true, nextStart := BitVec.ofNat 64 (s.time.toNat + s.cfg.errPauseUs), phase := .pause
            lineTrace := t.tx.lineTrace }
          env := s.askedSink.env
          log := s.log ++ [{ code := .transientIOError, agent := .tx, info := 0, time := s.time }] }))

/-- DATA and END (R276, R280, R281, R284, 30_encoding.md R115): slot T_SLOT is driven bit by bit, 4 microseconds each,
the slots back to back (one step a bit is the model's form, log 7; the bit enters LINE_TRACE as it starts, log 21); after
slot N the frame counts, the line is idle, and the next cycle is due at the period, or at once with a warning if the
cycle took longer; at any other TIME, or with RUN_TX = 0, there is no step. -/
def Obligations.TransmitDataAndEnd : Prop :=
  (∀ s : State, s.tx.phase = .data →
    s.loops.runTx = false ∨ s.time.toNat ≠
      s.tx.cycleStart.toNat + lowUs s.cfg + highUs s.cfg + 44 * s.tx.slot.toNat + 4 * s.tx.bit →
    perform .tx s = .next s) ∧
  ∀ (s : State) (d : Byte), s.loops.runTx = true → s.tx.phase = .data → s.tx.snap[s.tx.slot.toNat]? = some d →
    s.time.toNat =
      s.tx.cycleStart.toNat + lowUs s.cfg + highUs s.cfg + 44 * s.tx.slot.toNat + 4 * s.tx.bit →
    (∀ level, (slotBits d)[s.tx.bit]? = some level → perform .tx s = .next { s with tx := { s.tx with
      line := level, bit := s.tx.bit + 1
      lineTrace := s.tx.lineTrace ++ [{ level := level, start := s.time.toNat, duration := 4 }] } }) ∧
    (s.tx.bit = 11 → s.tx.slot.toNat < s.n → perform .tx s = .next { s with
      tx := { s.tx with slot := s.tx.slot + 1, bit := 0 } }) ∧
    (s.tx.bit = 11 → s.tx.slot.toNat = s.n → ∃ t elapsed, perform .tx s = .next t ∧
      elapsed = lowUs s.cfg + highUs s.cfg + 44 * (s.n + 1) ∧
      t = { s with
        tx := { s.tx with
          line := true, phase := .sleep, nextStart := t.tx.nextStart
          frames := s.tx.frames ++ [{ start := s.tx.cycleStart, bytes := s.tx.snap }] }
        log := t.log } ∧
      (elapsed ≤ periodUs s.cfg → t.log = s.log ∧
        t.tx.nextStart = BitVec.ofNat 64 (s.tx.cycleStart.toNat + periodUs s.cfg)) ∧
      (periodUs s.cfg < elapsed → t.tx.nextStart = s.time ∧ t.log = s.log ++ [{
        code := .overrunWarning, agent := .tx, info := BitVec.ofNat 16 (min 65535 (elapsed - periodUs s.cfg)),
        time := s.time }]))

/-- FRAMES and T_SNAP over every step (R279, R284): T_SNAP changes only in the snapshot, to the start code and all
channels as they stand at that instant; FRAMES grows only at the end of slot N, by the cycle's start and T_SNAP as it
was copied; so a frame is one consistent copy (20_memory.md R82). -/
def Obligations.FramesAreSnapshots : Prop :=
  ∀ s t : State, step s = .next t → s.nextMove ≠ .reset →
    (t.tx.snap = s.tx.snap ∨ s.nextMove = .tx ∧ s.tx.phase = .mab ∧ t.tx.phase = .data ∧ s.sinkOk = true ∧
      t.tx.snap = 0 :: (List.range s.n).map fun i => s.channel (i + 1)) ∧
    (t.tx.frames = s.tx.frames ∨ s.nextMove = .tx ∧ s.tx.phase = .data ∧ s.n ≤ s.tx.slot.toNat ∧
      t.tx.frames = s.tx.frames ++ [{ start := s.tx.cycleStart, bytes := s.tx.snap }] ∧ t.tx.phase = .sleep ∧
      t.tx.snap = s.tx.snap ∧ t.tx.line = true)

/-! ## The orchestrator (44_orchestrator.md) -/

/-- START (R303, R304): a device is asked only when its loop is named, does not run and, for the serial one, is not
virtual; a serial failure without a fallback starts nothing, with one it degrades to the virtual sink and is logged; an
audio failure is answered after the other loops were started (the list of coming answers is the model's form, log 2). -/
def Obligations.Start : Prop :=
  (∀ (mask : BitVec 3) (s : State) (aNeed sNeed aOk sOk : Bool),
    aNeed = (mask.getLsbD 0 && !s.loops.runCapture) →
    sNeed = (mask.getLsbD 2 && !s.loops.runTx && !s.tx.virtualSink) →
    aOk = (!aNeed || s.audioConnect) → sOk = (!sNeed || s.serialConnect) →
    (sOk = false → s.cfg.fallbackEn = false → ∃ t, exec (.start mask) s = .next t ∧ Asked aNeed sNeed s t ∧
      t = { s with
        env := t.env, port := readyPort, resp := s.resp ++ [if aOk then 0x03000004 else 0x03000005] }) ∧
    (sOk = true ∨ s.cfg.fallbackEn = true → ∃ t, exec (.start mask) s = .next t ∧ Asked aNeed sNeed s t ∧
      Started mask aOk s t ∧ t.tx.virtualSink = (s.tx.virtualSink || !sOk) ∧
      t.log = (if sOk then s.log else
        s.log ++ [{ code := .deviceError, agent := .tx, info := 1, time := s.time }]) ∧
      t.resp = s.resp ++ [if aOk then
          (0#29 ++ BitVec.ofBool t.loops.runTx ++ BitVec.ofBool t.loops.runTick ++
            BitVec.ofBool t.loops.runCapture : Word)
        else 0x03000001])) ∧
  ZeroBitsRefused .start 0x00FFFFF8

/-- STOP (R306). -/
def Obligations.Stop : Prop :=
  (∀ (mask : BitVec 3) (s : State), exec (.stop mask) s = .next { s with
    loops := { s.loops with
      stopCapture := s.loops.stopCapture || (mask.getLsbD 0 && s.loops.runCapture)
      stopTick := s.loops.stopTick || (mask.getLsbD 1 && s.loops.runTick)
      stopTx := s.loops.stopTx || (mask.getLsbD 2 && s.loops.runTx) }
    port := readyPort
    resp := s.resp ++ [(0#29 ++ BitVec.ofBool s.loops.runTx ++ BitVec.ofBool s.loops.runTick ++
      BitVec.ofBool s.loops.runCapture : Word)] }) ∧
  ZeroBitsRefused .stop 0x00FFFFF8

/-- TICK (R305): UPDATE(TIME) with its response dropped, and the next tick on the grid; the stop flag ends the loop
without an UPDATE. -/
def Obligations.Tick : Prop :=
  ∀ s : State,
    (s.loops.runTick = false ∨ s.time.toNat < s.loops.nextTick.toNat → perform .ticker s = .next s) ∧
    (s.loops.runTick = true → s.loops.nextTick.toNat ≤ s.time.toNat →
      (s.loops.stopTick = true → perform .ticker s = .next { s with
        loops := { s.loops with runTick := false, stopTick := false } }) ∧
      (∀ d, s.loops.stopTick = false → Renderable s d → ∃ u, exec (.update s.time) s = .next u ∧
        perform .ticker s = .next { u with
          loops := { s.loops with nextTick := s.loops.nextTick + 20000 }, port := s.port, resp := s.resp }))

/-- The loops' life cycle (R307): RUN = 0 with STOP = 1 never comes to be; RUN is set by commands only, and is cleared
only by the loop's own stop step or, for the capture loop, by a persistent audio failure; STOP is set by commands
only. -/
def Obligations.LoopLifeCycle : Prop :=
  ∀ s t : State, flagsOk s.loops = true → step s = .next t → s.nextMove ≠ .reset →
    flagsOk t.loops = true ∧
    (s.loops.runCapture = false → t.loops.runCapture = true → s.nextMove = .host) ∧
    (s.loops.runTick = false → t.loops.runTick = true → s.nextMove = .host) ∧
    (s.loops.runTx = false → t.loops.runTx = true → s.nextMove = .host) ∧
    (s.loops.runCapture = true → t.loops.runCapture = false → s.nextMove = .capture ∧ s.mbox.valid = false ∧
      t.loops.stopCapture = false ∧
      (s.loops.stopCapture = true ∨ s.cfg.audioFailLimit ≤ t.det.failCnt.toNat)) ∧
    (s.loops.runTick = true → t.loops.runTick = false → s.nextMove = .ticker ∧ s.loops.stopTick = true ∧
      t.loops.stopTick = false) ∧
    (s.loops.runTx = true → t.loops.runTx = false → s.nextMove = .tx ∧ s.loops.stopTx = true ∧
      t.loops.stopTx = false ∧ t.tx.phase = .idle) ∧
    (s.loops.stopCapture = false → t.loops.stopCapture = true → s.nextMove = .host) ∧
    (s.loops.stopTick = false → t.loops.stopTick = true → s.nextMove = .host) ∧
    (s.loops.stopTx = false → t.loops.stopTx = true → s.nextMove = .host)

end Statements
end

