-- ==== Sys2Proof/Laws/Assembler.lean ====
section
/-! SUPPORT. What the assembler reads: a decimal or hexadecimal numeral is read as its number, and a line of a mnemonic
and operands is cut into exactly these (30_encoding.md R121, R125). -/

namespace Sys2Proof.Machine

/-! ## Numerals -/

theorem digitValue_digitChar {d : Nat} (h : d < 16) : digitValue? d.digitChar = some d := by
  have : ∀ d < 16, digitValue? d.digitChar = some d := by decide
  exact this d h

theorem readDigits_append (b : Nat) (xs ys : List Char) (acc : Nat) :
    readDigits b (xs ++ ys) acc = (readDigits b xs acc).bind (readDigits b ys) := by
  induction xs generalizing acc with
  | nil => rfl
  | cons x xs ih =>
    simp only [List.cons_append, readDigits]
    split
    · rfl
    · split
      · exact ih _
      · rfl

/-- The digits of a number are read as the number. -/
theorem readDigits_toDigits {b : Nat} (hb : 1 < b) (hb' : b ≤ 16) (n : Nat) :
    readDigits b (Nat.toDigits b n) 0 = some n := by
  induction n using Nat.strongRecOn with
  | _ n ih =>
    by_cases h : n < b
    · rw [Nat.toDigits_of_lt_base h]
      simp [readDigits, digitValue_digitChar (show n < 16 by omega), h]
    · have hm : n % b < b := Nat.mod_lt _ (by omega)
      rw [Nat.toDigits_of_base_le hb (by omega), readDigits_append, ih _ (Nat.div_lt_self (by omega) hb)]
      simp [readDigits, digitValue_digitChar (show n % b < 16 by omega), hm, Nat.div_add_mod']

/-- A decimal digit is none of the characters the assembler cuts lines at or looks for. -/
theorem digit_ordinary {ch : Char} (h : ch.isDigit = true) :
    isBlank ch = false ∧ ch ≠ ',' ∧ ch ≠ ';' ∧ ch ≠ '=' ∧ ch ≠ '|' ∧ ch ≠ '#' ∧ ch ≠ '-' ∧ ch ≠ 'x' := by
  refine ⟨?_, ?_⟩
  · simp only [isBlank, Bool.or_eq_false_iff, beq_eq_false_iff_ne]
    constructor <;> rintro rfl <;> revert h <;> decide
  · refine ⟨?_, ?_, ?_, ?_, ?_, ?_, ?_⟩ <;> rintro rfl <;> revert h <;> decide

theorem toDigits_ne_nil (b n : Nat) : Nat.toDigits b n ≠ [] := Nat.toDigits_ne_nil

theorem decimal_digit {n : Nat} {ch : Char} (h : ch ∈ Nat.toDigits 10 n) : ch.isDigit = true :=
  Nat.isDigit_of_mem_toDigits (by decide) (by decide) h

theorem readNat_decimal (n : Nat) : readNat (Nat.toDigits 10 n) = some n := by
  have h := readDigits_toDigits (b := 10) (by decide) (by decide) n
  have hd : ∀ ch ∈ Nat.toDigits 10 n, ch.isDigit = true := fun _ => decimal_digit
  unfold readNat
  split
  · rename_i e; exact absurd e (toDigits_ne_nil _ _)
  · rename_i rest e
    exact absurd (hd 'x' (by rw [e]; simp)) (by decide)
  · exact h

theorem readNat_hexadecimal (n : Nat) : readNat ('0' :: 'x' :: Nat.toDigits 16 n) = some n := by
  have h := readDigits_toDigits (b := 16) (by decide) (by decide) n
  have hn := toDigits_ne_nil 16 n
  simp [readNat, h, hn]

/-- The text of an integer: its digits, behind a sign where it is negative. -/
theorem toList_toString_int (v : Int) :
    (toString v).toList = if 0 ≤ v then Nat.toDigits 10 v.toNat else '-' :: Nat.toDigits 10 v.natAbs := by
  cases v with
  | ofNat n => exact Nat.toList_repr
  | negSucc n =>
    show ("-" ++ (n + 1).repr).toList = _
    rw [String.toList_append, Nat.toList_repr]
    rfl

theorem readNat_minus (n : Nat) : readNat ('-' :: Nat.toDigits 10 n) = none := by
  simp [readNat, readDigits, digitValue?]

theorem readNat_toString (v : Int) : readNat (toString v).toList = if 0 ≤ v then some v.toNat else none := by
  rw [toList_toString_int]
  split
  · exact readNat_decimal _
  · exact readNat_minus _

theorem readInt_toString (v : Int) : readInt (toString v).toList = some v := by
  rw [toList_toString_int]
  split
  · rename_i h
    have hd : ∀ ch ∈ Nat.toDigits 10 v.toNat, ch.isDigit = true := fun _ => decimal_digit
    unfold readInt
    split
    · rename_i rest e
      exact absurd (hd '-' (by rw [e]; simp)) (by decide)
    · rw [readNat_decimal]
      simp [h]
  · rename_i h
    have e : -((v.natAbs : Nat) : Int) = v := by omega
    simp only [readInt, readNat_decimal]
    exact congrArg some e

/-- A number is read into an unsigned field exactly where it fits (30_encoding.md R121). -/
theorem readField_toString (w : Nat) (v : Int) : readField w (toString v).toList = fieldOf? w v := by
  unfold readField fieldOf?
  rw [readNat_toString]
  by_cases h : 0 ≤ v
  · obtain ⟨n, rfl⟩ := Int.eq_ofNat_of_zero_le h
    have : ((n : Int) < 2 ^ w) ↔ n < 2 ^ w := by exact_mod_cast Iff.rfl
    simp [this, BitVec.ofInt_natCast]
  · simp [h]

/-- A number is read into VAL exactly where it fits (30_encoding.md R121). -/
theorem readValue_toString (v : Int) : readValue (toString v).toList = valueOf? v := by
  unfold readValue valueOf?
  rw [readInt_toString]
  simp

theorem readField_hexadecimal (w n : Nat) : readField w ('0' :: 'x' :: Nat.toDigits 16 n) = fieldOf? w n := by
  unfold readField fieldOf?
  rw [readNat_hexadecimal]
  have : ((n : Int) < 2 ^ w) ↔ n < 2 ^ w := by exact_mod_cast Iff.rfl
  simp [this, BitVec.ofInt_natCast]

/-- The characters of an integer's text. -/
theorem mem_toString_int {v : Int} {ch : Char} (h : ch ∈ (toString v).toList) : ch = '-' ∨ ch.isDigit = true := by
  rw [toList_toString_int] at h
  split at h
  · exact .inr (decimal_digit h)
  · rcases List.mem_cons.1 h with rfl | h
    · exact .inl rfl
    · exact .inr (decimal_digit h)

theorem toString_int_ne_nil (v : Int) : (toString v).toList ≠ [] := by
  rw [toList_toString_int]
  split
  · exact toDigits_ne_nil _ _
  · exact List.cons_ne_nil _ _

/-! ## Operands -/

theorem isOperand_iff {cs : List Char} :
    isOperand cs = true ↔ cs ≠ [] ∧ ∀ ch ∈ cs, isBlank ch = false ∧ ch ≠ ',' ∧ ch ≠ ';' := by
  simp [isOperand, and_assoc]

theorem isOperand_append {a b : List Char} (ha : isOperand a = true) (hb : isOperand b = true) :
    isOperand (a ++ b) = true := by
  rw [isOperand_iff] at *
  refine ⟨by simp [ha.1], fun ch h => ?_⟩
  rcases List.mem_append.1 h with h | h
  · exact ha.2 ch h
  · exact hb.2 ch h

theorem isOperand_toString (v : Int) : isOperand (toString v).toList = true := by
  rw [isOperand_iff]
  refine ⟨toString_int_ne_nil v, fun ch h => ?_⟩
  rcases mem_toString_int h with rfl | h
  · decide
  · have := digit_ordinary h
    exact ⟨this.1, this.2.1, this.2.2.1⟩

theorem isOperand_hexadecimal (n : Nat) : isOperand ('0' :: 'x' :: Nat.toDigits 16 n) = true := by
  have key : ∀ m, ∀ ch ∈ Nat.toDigits 16 m, isBlank ch = false ∧ ch ≠ ',' ∧ ch ≠ ';' := by
    intro m
    induction m using Nat.strongRecOn with
    | _ m ih =>
      have hdig : ∀ d < 16, isBlank d.digitChar = false ∧ d.digitChar ≠ ',' ∧ d.digitChar ≠ ';' := by decide
      by_cases h : m < 16
      · rw [Nat.toDigits_of_lt_base h]
        intro ch hc
        rw [List.mem_singleton.1 hc]
        exact hdig m h
      · rw [Nat.toDigits_of_base_le (by decide) (by omega)]
        intro ch hc
        rcases List.mem_append.1 hc with hc | hc
        · exact ih _ (Nat.div_lt_self (by omega) (by decide)) ch hc
        · rw [List.mem_singleton.1 hc]
          exact hdig _ (Nat.mod_lt _ (by decide))
  rw [isOperand_iff]
  refine ⟨List.cons_ne_nil _ _, fun ch h => ?_⟩
  rcases List.mem_cons.1 h with rfl | h
  · decide
  · rcases List.mem_cons.1 h with rfl | h
    · decide
    · exact key n ch h

/-! ## Cutting a line -/

theorem splitAtChar_free {sep : Char} {cs : List Char} (h : sep ∉ cs) : splitAtChar sep cs = [cs] := by
  induction cs with
  | nil => rfl
  | cons c cs ih =>
    have hc : c ≠ sep := fun e => h (by simp [e])
    rw [splitAtChar, ih (fun hm => h (List.mem_cons_of_mem _ hm))]
    simp [hc]

/-- A text is cut at its first separator. -/
theorem splitAtChar_append {sep : Char} {cs : List Char} (h : sep ∉ cs) (rest : List Char) :
    splitAtChar sep (cs ++ sep :: rest) = cs :: splitAtChar sep rest := by
  induction cs with
  | nil =>
    show splitAtChar sep (sep :: rest) = _
    rw [splitAtChar]
    cases hr : splitAtChar sep rest with
    | nil => exact absurd hr (by cases rest <;> simp [splitAtChar]; (repeat' split) <;> simp)
    | cons p ps => simp
  | cons c cs ih =>
    have hc : c ≠ sep := fun e => h (by simp [e])
    rw [List.cons_append, splitAtChar, ih (fun hm => h (List.mem_cons_of_mem _ hm))]
    simp [hc]

theorem trimBlanks_operand {cs : List Char} (h : ∀ ch ∈ cs, isBlank ch = false) : trimBlanks cs = cs := by
  have key : ∀ l : List Char, (∀ ch ∈ l, isBlank ch = false) → l.dropWhile isBlank = l := by
    intro l hl
    cases l with
    | nil => rfl
    | cons a l => simp [hl a (by simp)]
  unfold trimBlanks
  rw [key cs h, key _ (fun ch hc => h ch (List.mem_reverse.1 hc)), List.reverse_reverse]

/-- The text between two characters that are no blanks is not trimmed; blanks before it are. -/
theorem trimBlanks_ends {a b : Char} {mid : List Char} (ha : isBlank a = false) (hb : isBlank b = false) :
    trimBlanks (a :: (mid ++ [b])) = a :: (mid ++ [b]) := by
  unfold trimBlanks
  rw [List.dropWhile_cons_of_neg (by simp [ha])]
  have e : (a :: (mid ++ [b])).reverse = b :: (mid.reverse ++ [a]) := by simp
  rw [e, List.dropWhile_cons_of_neg (by simp [hb]), ← e, List.reverse_reverse]

theorem trimBlanks_space (cs : List Char) : trimBlanks (' ' :: cs) = trimBlanks cs := by
  unfold trimBlanks
  rw [List.dropWhile_cons_of_pos (by decide)]

theorem trimBlanks_space_end {cs : List Char} (h : ∀ ch ∈ cs, isBlank ch = false) : trimBlanks (cs ++ [' ']) = cs := by
  cases cs with
  | nil => rfl
  | cons a cs =>
    unfold trimBlanks
    rw [List.cons_append, List.dropWhile_cons_of_neg (by simp [h a (by simp)])]
    have e : (a :: (cs ++ [' '])).reverse = ' ' :: (a :: cs).reverse := by simp
    rw [e, List.dropWhile_cons_of_pos (by decide)]
    have := trimBlanks_operand h
    unfold trimBlanks at this
    rwa [List.dropWhile_cons_of_neg (by simp [h a (by simp)])] at this

/-- Operands joined by a comma and a space, as a list of characters. -/
def joined (ops : List (List Char)) : List Char := [',', ' '].intercalate ops

theorem joined_cons_cons (a b : List Char) (ops : List (List Char)) :
    joined (a :: b :: ops) = a ++ ',' :: ' ' :: joined (b :: ops) := by
  simp [joined, List.intercalate]

theorem joined_ends {ops : List (List Char)} (h : ∀ o ∈ ops, isOperand o = true) (hn : ops ≠ []) :
    ∃ pre b, joined ops = pre ++ [b] ∧ isBlank b = false := by
  induction ops with
  | nil => exact absurd rfl hn
  | cons a ops ih =>
    cases ops with
    | nil =>
      have ha := isOperand_iff.1 (h a (by simp))
      refine ⟨a.dropLast, a.getLast ha.1, ?_, (ha.2 _ (List.getLast_mem _)).1⟩
      rw [List.dropLast_concat_getLast]
      simp [joined, List.intercalate]
    | cons b ops =>
      obtain ⟨pre, x, e, hx⟩ := ih (fun o ho => h o (List.mem_cons_of_mem _ ho)) (by simp)
      exact ⟨a ++ ',' :: ' ' :: pre, x, by rw [joined_cons_cons, e]; simp, hx⟩

theorem not_mem_joined {ops : List (List Char)} (h : ∀ o ∈ ops, isOperand o = true) : ';' ∉ joined ops := by
  induction ops with
  | nil => simp [joined, List.intercalate]
  | cons a ops ih =>
    have ha := isOperand_iff.1 (h a (by simp))
    have ha' : ';' ∉ a := fun hm => (ha.2 _ hm).2.2 rfl
    cases ops with
    | nil => simpa [joined, List.intercalate] using ha'
    | cons b ops =>
      have := ih (fun o ho => h o (List.mem_cons_of_mem _ ho))
      rw [joined_cons_cons]
      simp [ha', this]

theorem splitAtChar_joined {a : List Char} {ops : List (List Char)} (h : ∀ o ∈ a :: ops, isOperand o = true) :
    (splitAtChar ',' (' ' :: joined (a :: ops))).map trimBlanks = a :: ops := by
  induction ops generalizing a with
  | nil =>
    have ha := isOperand_iff.1 (h a (by simp))
    have hc : ',' ∉ ' ' :: a := by
      intro hm
      rcases List.mem_cons.1 hm with hm | hm
      · revert hm; decide
      · exact (ha.2 _ hm).2.1 rfl
    have e : joined [a] = a := by simp [joined, List.intercalate]
    rw [e, splitAtChar_free hc]
    simp [trimBlanks_space, trimBlanks_operand fun ch hm => (ha.2 ch hm).1]
  | cons b ops ih =>
    have ha := isOperand_iff.1 (h a (by simp))
    have hc : ',' ∉ ' ' :: a := by
      intro hm
      rcases List.mem_cons.1 hm with hm | hm
      · revert hm; decide
      · exact (ha.2 _ hm).2.1 rfl
    have := ih (a := b) (fun o ho => h o (List.mem_cons_of_mem _ ho))
    rw [joined_cons_cons, ← List.cons_append, splitAtChar_append hc, List.map_cons, this, trimBlanks_space,
      trimBlanks_operand fun ch hm => (ha.2 ch hm).1]

/-- A line of a mnemonic and operands is assembled from exactly these (30_encoding.md R125). -/
theorem assembleLine_operands {c : Cfg} {line : String} {m : List Char} {ops : List (List Char)}
    (hm : isOperand m = true) (ho : ∀ o ∈ ops, isOperand o = true) (hl : line.toList = m ++ ' ' :: joined ops) :
    assembleLine c line = assembleCommand c m ops := by
  have hm' := isOperand_iff.1 hm
  have hsemi : ';' ∉ line.toList := by
    rw [hl]
    intro h
    rcases List.mem_append.1 h with h | h
    · exact (hm'.2 _ h).2.2 rfl
    · rcases List.mem_cons.1 h with h | h
      · revert h; decide
      · exact not_mem_joined ho h
  have htake : line.toList.takeWhile (fun ch => ch != ';') = line.toList := by
    rw [List.takeWhile_eq_self_iff]
    intro ch hch
    simp only [bne_iff_ne]
    rintro rfl
    exact hsemi hch
  have hnb : ∀ ch ∈ m, isBlank ch = false := fun ch hc => (hm'.2 ch hc).1
  have htw : ∀ r : List Char, (m ++ ' ' :: r).takeWhile (fun ch => !isBlank ch) = m := by
    intro r
    rw [List.takeWhile_append_of_pos (fun ch hc => by simp [hnb ch hc])]
    simp [show isBlank ' ' = true by decide]
  have hdw : ∀ r : List Char, (m ++ ' ' :: r).dropWhile (fun ch => !isBlank ch) = ' ' :: r := by
    intro r
    rw [List.dropWhile_append_of_pos (fun ch hc => by simp [hnb ch hc])]
    simp [show isBlank ' ' = true by decide]
  unfold assembleLine
  rw [htake, hl]
  cases ops with
  | nil =>
    have e : joined [] = [] := rfl
    rw [e, trimBlanks_space_end hnb]
    have h1 : m.takeWhile (fun ch => !isBlank ch) = m := by
      rw [List.takeWhile_eq_self_iff]; intro ch hc; simp [hnb ch hc]
    have h2 : m.dropWhile (fun ch => !isBlank ch) = [] := by
      rw [List.dropWhile_eq_nil_iff]; intro ch hc; simp [hnb ch hc]
    dsimp only
    rw [h1, h2]
    rfl
  | cons a ops =>
    obtain ⟨pre, b, e, hb⟩ := joined_ends ho (by simp)
    obtain ⟨x, xs, hx⟩ := List.exists_cons_of_ne_nil hm'.1
    have ht : trimBlanks (m ++ ' ' :: joined (a :: ops)) = m ++ ' ' :: joined (a :: ops) := by
      have := trimBlanks_ends (a := x) (b := b) (mid := xs ++ ' ' :: pre) (hnb x (by simp [hx])) hb
      rw [e, hx]
      simpa using this
    dsimp only
    rw [ht, htw, hdw]
    congr 1
    unfold operandTexts
    have hne : (trimBlanks (' ' :: joined (a :: ops))).isEmpty = false := by
      rw [trimBlanks_space]
      have ha := isOperand_iff.1 (ho a (by simp))
      obtain ⟨y, ys, hy⟩ := List.exists_cons_of_ne_nil ha.1
      have hj : ∃ zs, joined (a :: ops) = y :: zs := by
        cases ops with
        | nil => exact ⟨ys, by simp [joined, List.intercalate, hy]⟩
        | cons b' ops => exact ⟨_, by rw [joined_cons_cons, hy]; rfl⟩
      obtain ⟨zs, hz⟩ := hj
      unfold trimBlanks
      rw [hz, List.dropWhile_cons_of_neg (by simp [(ha.2 y (by simp [hy])).1])]
      have hlast : (y :: zs).reverse = b :: pre.reverse := by rw [← hz, e]; simp
      rw [hlast, List.dropWhile_cons_of_neg (by simp [hb])]
      simp
    rw [hne]
    exact splitAtChar_joined ho

/-- A line of a mnemonic alone. -/
theorem assembleLine_alone {c : Cfg} {line : String} {m : List Char} (hm : isOperand m = true)
    (hl : line.toList = m) : assembleLine c line = assembleCommand c m [] := by
  have hm' := isOperand_iff.1 hm
  have hnb : ∀ ch ∈ m, isBlank ch = false := fun ch hc => (hm'.2 ch hc).1
  have h0 : m.takeWhile (fun ch => ch != ';') = m := by
    rw [List.takeWhile_eq_self_iff]; intro ch hc; simpa using (hm'.2 ch hc).2.2
  have h1 : m.takeWhile (fun ch => !isBlank ch) = m := by
    rw [List.takeWhile_eq_self_iff]; intro ch hc; simp [hnb ch hc]
  have h2 : m.dropWhile (fun ch => !isBlank ch) = [] := by
    rw [List.dropWhile_eq_nil_iff]; intro ch hc; simp [hnb ch hc]
  unfold assembleLine
  rw [hl, h0, trimBlanks_operand hnb]
  dsimp only
  rw [h1, h2]
  rfl

end Sys2Proof.Machine
end

