-- ==== Sys2Proof/Laws/State.lean ====
section
/-! SUPPORT. One lemma per field for each update of the state, so that no proof unfolds a record update. -/

namespace Sys2Proof.Machine

section Updates
variable (s : State)

/-! ### respond -/

@[simp] theorem State.respond_cfg (ws : List Word) : (s.respond ws).cfg = s.cfg := rfl
@[simp] theorem State.respond_env (ws : List Word) : (s.respond ws).env = s.env := rfl
@[simp] theorem State.respond_time (ws : List Word) : (s.respond ws).time = s.time := rfl
@[simp] theorem State.respond_det (ws : List Word) : (s.respond ws).det = s.det := rfl
@[simp] theorem State.respond_mbox (ws : List Word) : (s.respond ws).mbox = s.mbox := rfl
@[simp] theorem State.respond_eng (ws : List Word) : (s.respond ws).eng = s.eng := rfl
@[simp] theorem State.respond_ch (ws : List Word) : (s.respond ws).ch = s.ch := rfl
@[simp] theorem State.respond_tx (ws : List Word) : (s.respond ws).tx = s.tx := rfl
@[simp] theorem State.respond_loops (ws : List Word) : (s.respond ws).loops = s.loops := rfl
@[simp] theorem State.respond_port (ws : List Word) : (s.respond ws).port = { cBuf := [], cNeed := 0 } := rfl
@[simp] theorem State.respond_fa (ws : List Word) : (s.respond ws).fa = s.fa := rfl
@[simp] theorem State.respond_log (ws : List Word) : (s.respond ws).log = s.log := rfl
@[simp] theorem State.respond_resp (ws : List Word) : (s.respond ws).resp = s.resp ++ ws := rfl
@[simp] theorem State.respond_n (ws : List Word) : (s.respond ws).n = s.n := rfl
@[simp] theorem State.respond_channel (ws : List Word) (i : Nat) : (s.respond ws).channel i = s.channel i := rfl
@[simp] theorem State.respond_sinkOk (ws : List Word) : (s.respond ws).sinkOk = s.sinkOk := rfl

/-! ### respondOk -/

@[simp] theorem State.respondOk_cfg (data : BitVec 24) : (s.respondOk data).cfg = s.cfg := rfl
@[simp] theorem State.respondOk_env (data : BitVec 24) : (s.respondOk data).env = s.env := rfl
@[simp] theorem State.respondOk_time (data : BitVec 24) : (s.respondOk data).time = s.time := rfl
@[simp] theorem State.respondOk_det (data : BitVec 24) : (s.respondOk data).det = s.det := rfl
@[simp] theorem State.respondOk_mbox (data : BitVec 24) : (s.respondOk data).mbox = s.mbox := rfl
@[simp] theorem State.respondOk_eng (data : BitVec 24) : (s.respondOk data).eng = s.eng := rfl
@[simp] theorem State.respondOk_ch (data : BitVec 24) : (s.respondOk data).ch = s.ch := rfl
@[simp] theorem State.respondOk_tx (data : BitVec 24) : (s.respondOk data).tx = s.tx := rfl
@[simp] theorem State.respondOk_loops (data : BitVec 24) : (s.respondOk data).loops = s.loops := rfl
@[simp] theorem State.respondOk_port (data : BitVec 24) : (s.respondOk data).port = { cBuf := [], cNeed := 0 } := rfl
@[simp] theorem State.respondOk_fa (data : BitVec 24) : (s.respondOk data).fa = s.fa := rfl
@[simp] theorem State.respondOk_log (data : BitVec 24) : (s.respondOk data).log = s.log := rfl
@[simp] theorem State.respondOk_resp (data : BitVec 24) : (s.respondOk data).resp =
    s.resp ++ [responseWord .ok data] := rfl
@[simp] theorem State.respondOk_n (data : BitVec 24) : (s.respondOk data).n = s.n := rfl
@[simp] theorem State.respondOk_channel (data : BitVec 24) (i : Nat) : (s.respondOk data).channel i = s.channel i := rfl
@[simp] theorem State.respondOk_sinkOk (data : BitVec 24) : (s.respondOk data).sinkOk = s.sinkOk := rfl

/-! ### refuse -/

@[simp] theorem State.refuse_cfg (c : ResultCode) (info : BitVec 24) : (s.refuse c info).cfg = s.cfg := rfl
@[simp] theorem State.refuse_env (c : ResultCode) (info : BitVec 24) : (s.refuse c info).env = s.env := rfl
@[simp] theorem State.refuse_time (c : ResultCode) (info : BitVec 24) : (s.refuse c info).time = s.time := rfl
@[simp] theorem State.refuse_det (c : ResultCode) (info : BitVec 24) : (s.refuse c info).det = s.det := rfl
@[simp] theorem State.refuse_mbox (c : ResultCode) (info : BitVec 24) : (s.refuse c info).mbox = s.mbox := rfl
@[simp] theorem State.refuse_eng (c : ResultCode) (info : BitVec 24) : (s.refuse c info).eng = s.eng := rfl
@[simp] theorem State.refuse_ch (c : ResultCode) (info : BitVec 24) : (s.refuse c info).ch = s.ch := rfl
@[simp] theorem State.refuse_tx (c : ResultCode) (info : BitVec 24) : (s.refuse c info).tx = s.tx := rfl
@[simp] theorem State.refuse_loops (c : ResultCode) (info : BitVec 24) : (s.refuse c info).loops = s.loops := rfl
@[simp] theorem State.refuse_port (c : ResultCode) (info : BitVec 24) : (s.refuse c info).port =
    { cBuf := [], cNeed := 0 } := rfl
@[simp] theorem State.refuse_fa (c : ResultCode) (info : BitVec 24) : (s.refuse c info).fa = s.fa := rfl
@[simp] theorem State.refuse_log (c : ResultCode) (info : BitVec 24) : (s.refuse c info).log = s.log := rfl
@[simp] theorem State.refuse_resp (c : ResultCode) (info : BitVec 24) : (s.refuse c info).resp =
    s.resp ++ [responseWord c info] := rfl
@[simp] theorem State.refuse_n (c : ResultCode) (info : BitVec 24) : (s.refuse c info).n = s.n := rfl
@[simp] theorem State.refuse_channel (c : ResultCode) (info : BitVec 24) (i : Nat) : (s.refuse c info).channel i =
    s.channel i := rfl
@[simp] theorem State.refuse_sinkOk (c : ResultCode) (info : BitVec 24) : (s.refuse c info).sinkOk = s.sinkOk := rfl

/-! ### appendLog -/

@[simp] theorem State.appendLog_cfg (c : ResultCode) (a : Agent) (info : BitVec 16) : (s.appendLog c a info).cfg =
    s.cfg := rfl
@[simp] theorem State.appendLog_env (c : ResultCode) (a : Agent) (info : BitVec 16) : (s.appendLog c a info).env =
    s.env := rfl
@[simp] theorem State.appendLog_time (c : ResultCode) (a : Agent) (info : BitVec 16) : (s.appendLog c a info).time =
    s.time := rfl
@[simp] theorem State.appendLog_det (c : ResultCode) (a : Agent) (info : BitVec 16) : (s.appendLog c a info).det =
    s.det := rfl
@[simp] theorem State.appendLog_mbox (c : ResultCode) (a : Agent) (info : BitVec 16) : (s.appendLog c a info).mbox =
    s.mbox := rfl
@[simp] theorem State.appendLog_eng (c : ResultCode) (a : Agent) (info : BitVec 16) : (s.appendLog c a info).eng =
    s.eng := rfl
@[simp] theorem State.appendLog_ch (c : ResultCode) (a : Agent) (info : BitVec 16) : (s.appendLog c a info).ch =
    s.ch := rfl
@[simp] theorem State.appendLog_tx (c : ResultCode) (a : Agent) (info : BitVec 16) : (s.appendLog c a info).tx =
    s.tx := rfl
@[simp] theorem State.appendLog_loops (c : ResultCode) (a : Agent) (info : BitVec 16) : (s.appendLog c a info).loops =
    s.loops := rfl
@[simp] theorem State.appendLog_port (c : ResultCode) (a : Agent) (info : BitVec 16) : (s.appendLog c a info).port =
    s.port := rfl
@[simp] theorem State.appendLog_fa (c : ResultCode) (a : Agent) (info : BitVec 16) : (s.appendLog c a info).fa =
    s.fa := rfl
@[simp] theorem State.appendLog_log (c : ResultCode) (a : Agent) (info : BitVec 16) : (s.appendLog c a info).log =
    s.log ++ [{ code := c, agent := a, info := info, time := s.time }] := rfl
@[simp] theorem State.appendLog_resp (c : ResultCode) (a : Agent) (info : BitVec 16) : (s.appendLog c a info).resp =
    s.resp := rfl
@[simp] theorem State.appendLog_n (c : ResultCode) (a : Agent) (info : BitVec 16) : (s.appendLog c a info).n =
    s.n := rfl
@[simp] theorem State.appendLog_channel (c : ResultCode) (a : Agent) (info : BitVec 16) (i : Nat) : (s.appendLog c a info).channel i =
    s.channel i := rfl
@[simp] theorem State.appendLog_sinkOk (c : ResultCode) (a : Agent) (info : BitVec 16) : (s.appendLog c a info).sinkOk =
    s.sinkOk := rfl

/-! ### writeChannels -/

@[simp] theorem State.writeChannels_cfg (cells : List Host.Cell) : (s.writeChannels cells).cfg = s.cfg := rfl
@[simp] theorem State.writeChannels_env (cells : List Host.Cell) : (s.writeChannels cells).env = s.env := rfl
@[simp] theorem State.writeChannels_time (cells : List Host.Cell) : (s.writeChannels cells).time = s.time := rfl
@[simp] theorem State.writeChannels_det (cells : List Host.Cell) : (s.writeChannels cells).det = s.det := rfl
@[simp] theorem State.writeChannels_mbox (cells : List Host.Cell) : (s.writeChannels cells).mbox = s.mbox := rfl
@[simp] theorem State.writeChannels_eng (cells : List Host.Cell) : (s.writeChannels cells).eng = s.eng := rfl
@[simp] theorem State.writeChannels_ch (cells : List Host.Cell) : (s.writeChannels cells).ch =
    Memory.writeAll s.ch cells := rfl
@[simp] theorem State.writeChannels_tx (cells : List Host.Cell) : (s.writeChannels cells).tx = s.tx := rfl
@[simp] theorem State.writeChannels_loops (cells : List Host.Cell) : (s.writeChannels cells).loops = s.loops := rfl
@[simp] theorem State.writeChannels_port (cells : List Host.Cell) : (s.writeChannels cells).port = s.port := rfl
@[simp] theorem State.writeChannels_fa (cells : List Host.Cell) : (s.writeChannels cells).fa = s.fa := rfl
@[simp] theorem State.writeChannels_log (cells : List Host.Cell) : (s.writeChannels cells).log = s.log := rfl
@[simp] theorem State.writeChannels_resp (cells : List Host.Cell) : (s.writeChannels cells).resp = s.resp := rfl
@[simp] theorem State.writeChannels_n (cells : List Host.Cell) : (s.writeChannels cells).n = s.n := rfl
@[simp] theorem State.writeChannels_sinkOk (cells : List Host.Cell) : (s.writeChannels cells).sinkOk = s.sinkOk := rfl

/-! ### fillChannels -/

@[simp] theorem State.fillChannels_cfg (v : Byte) : (s.fillChannels v).cfg = s.cfg := rfl
@[simp] theorem State.fillChannels_env (v : Byte) : (s.fillChannels v).env = s.env := rfl
@[simp] theorem State.fillChannels_time (v : Byte) : (s.fillChannels v).time = s.time := rfl
@[simp] theorem State.fillChannels_det (v : Byte) : (s.fillChannels v).det = s.det := rfl
@[simp] theorem State.fillChannels_mbox (v : Byte) : (s.fillChannels v).mbox = s.mbox := rfl
@[simp] theorem State.fillChannels_eng (v : Byte) : (s.fillChannels v).eng = s.eng := rfl
@[simp] theorem State.fillChannels_ch (v : Byte) : (s.fillChannels v).ch = Memory.fill s.ch s.n v := rfl
@[simp] theorem State.fillChannels_tx (v : Byte) : (s.fillChannels v).tx = s.tx := rfl
@[simp] theorem State.fillChannels_loops (v : Byte) : (s.fillChannels v).loops = s.loops := rfl
@[simp] theorem State.fillChannels_port (v : Byte) : (s.fillChannels v).port = s.port := rfl
@[simp] theorem State.fillChannels_fa (v : Byte) : (s.fillChannels v).fa = s.fa := rfl
@[simp] theorem State.fillChannels_log (v : Byte) : (s.fillChannels v).log = s.log := rfl
@[simp] theorem State.fillChannels_resp (v : Byte) : (s.fillChannels v).resp = s.resp := rfl
@[simp] theorem State.fillChannels_n (v : Byte) : (s.fillChannels v).n = s.n := rfl
@[simp] theorem State.fillChannels_sinkOk (v : Byte) : (s.fillChannels v).sinkOk = s.sinkOk := rfl

/-! ### takeMove -/

@[simp] theorem State.takeMove_cfg : (s.takeMove).cfg = s.cfg := rfl
@[simp] theorem State.takeMove_env : (s.takeMove).env =
    { s.env with moves := s.env.moves.tail, movesMade := s.env.movesMade + 1 } := rfl
@[simp] theorem State.takeMove_time : (s.takeMove).time = s.time := rfl
@[simp] theorem State.takeMove_det : (s.takeMove).det = s.det := rfl
@[simp] theorem State.takeMove_mbox : (s.takeMove).mbox = s.mbox := rfl
@[simp] theorem State.takeMove_eng : (s.takeMove).eng = s.eng := rfl
@[simp] theorem State.takeMove_ch : (s.takeMove).ch = s.ch := rfl
@[simp] theorem State.takeMove_tx : (s.takeMove).tx = s.tx := rfl
@[simp] theorem State.takeMove_loops : (s.takeMove).loops = s.loops := rfl
@[simp] theorem State.takeMove_port : (s.takeMove).port = s.port := rfl
@[simp] theorem State.takeMove_fa : (s.takeMove).fa = s.fa := rfl
@[simp] theorem State.takeMove_log : (s.takeMove).log = s.log := rfl
@[simp] theorem State.takeMove_resp : (s.takeMove).resp = s.resp := rfl
@[simp] theorem State.takeMove_n : (s.takeMove).n = s.n := rfl
@[simp] theorem State.takeMove_channel (i : Nat) : (s.takeMove).channel i = s.channel i := rfl

/-! ### drawn -/

@[simp] theorem State.drawn_cfg : (s.drawn).cfg = s.cfg := rfl
@[simp] theorem State.drawn_env : (s.drawn).env =
    { s.env with draws := s.env.draws.tail, drawsMade := s.env.drawsMade + 1 } := rfl
@[simp] theorem State.drawn_time : (s.drawn).time = s.time := rfl
@[simp] theorem State.drawn_det : (s.drawn).det = s.det := rfl
@[simp] theorem State.drawn_mbox : (s.drawn).mbox = s.mbox := rfl
@[simp] theorem State.drawn_eng : (s.drawn).eng = s.eng := rfl
@[simp] theorem State.drawn_ch : (s.drawn).ch = s.ch := rfl
@[simp] theorem State.drawn_tx : (s.drawn).tx = s.tx := rfl
@[simp] theorem State.drawn_loops : (s.drawn).loops = s.loops := rfl
@[simp] theorem State.drawn_port : (s.drawn).port = s.port := rfl
@[simp] theorem State.drawn_fa : (s.drawn).fa = s.fa := rfl
@[simp] theorem State.drawn_log : (s.drawn).log = s.log := rfl
@[simp] theorem State.drawn_resp : (s.drawn).resp = s.resp := rfl
@[simp] theorem State.drawn_n : (s.drawn).n = s.n := rfl
@[simp] theorem State.drawn_channel (i : Nat) : (s.drawn).channel i = s.channel i := rfl

/-! ### askedAudio -/

@[simp] theorem State.askedAudio_cfg : (s.askedAudio).cfg = s.cfg := rfl
@[simp] theorem State.askedAudio_env : (s.askedAudio).env =
    { s.env with audioConnects := s.env.audioConnects.tail, audioAsked := s.env.audioAsked + 1 } := rfl
@[simp] theorem State.askedAudio_time : (s.askedAudio).time = s.time := rfl
@[simp] theorem State.askedAudio_det : (s.askedAudio).det = s.det := rfl
@[simp] theorem State.askedAudio_mbox : (s.askedAudio).mbox = s.mbox := rfl
@[simp] theorem State.askedAudio_eng : (s.askedAudio).eng = s.eng := rfl
@[simp] theorem State.askedAudio_ch : (s.askedAudio).ch = s.ch := rfl
@[simp] theorem State.askedAudio_tx : (s.askedAudio).tx = s.tx := rfl
@[simp] theorem State.askedAudio_loops : (s.askedAudio).loops = s.loops := rfl
@[simp] theorem State.askedAudio_port : (s.askedAudio).port = s.port := rfl
@[simp] theorem State.askedAudio_fa : (s.askedAudio).fa = s.fa := rfl
@[simp] theorem State.askedAudio_log : (s.askedAudio).log = s.log := rfl
@[simp] theorem State.askedAudio_resp : (s.askedAudio).resp = s.resp := rfl
@[simp] theorem State.askedAudio_n : (s.askedAudio).n = s.n := rfl
@[simp] theorem State.askedAudio_channel (i : Nat) : (s.askedAudio).channel i = s.channel i := rfl

/-! ### askedSerial -/

@[simp] theorem State.askedSerial_cfg : (s.askedSerial).cfg = s.cfg := rfl
@[simp] theorem State.askedSerial_env : (s.askedSerial).env =
    { s.env with serialConnects := s.env.serialConnects.tail, serialAsked := s.env.serialAsked + 1 } := rfl
@[simp] theorem State.askedSerial_time : (s.askedSerial).time = s.time := rfl
@[simp] theorem State.askedSerial_det : (s.askedSerial).det = s.det := rfl
@[simp] theorem State.askedSerial_mbox : (s.askedSerial).mbox = s.mbox := rfl
@[simp] theorem State.askedSerial_eng : (s.askedSerial).eng = s.eng := rfl
@[simp] theorem State.askedSerial_ch : (s.askedSerial).ch = s.ch := rfl
@[simp] theorem State.askedSerial_tx : (s.askedSerial).tx = s.tx := rfl
@[simp] theorem State.askedSerial_loops : (s.askedSerial).loops = s.loops := rfl
@[simp] theorem State.askedSerial_port : (s.askedSerial).port = s.port := rfl
@[simp] theorem State.askedSerial_fa : (s.askedSerial).fa = s.fa := rfl
@[simp] theorem State.askedSerial_log : (s.askedSerial).log = s.log := rfl
@[simp] theorem State.askedSerial_resp : (s.askedSerial).resp = s.resp := rfl
@[simp] theorem State.askedSerial_n : (s.askedSerial).n = s.n := rfl
@[simp] theorem State.askedSerial_channel (i : Nat) : (s.askedSerial).channel i = s.channel i := rfl

/-! ### askedSink -/

@[simp] theorem State.askedSink_cfg : (s.askedSink).cfg = s.cfg := rfl
@[simp] theorem State.askedSink_env : (s.askedSink).env =
    { s.env with sinkOks := s.env.sinkOks.tail, sinkAsked := s.env.sinkAsked + 1 } := rfl
@[simp] theorem State.askedSink_time : (s.askedSink).time = s.time := rfl
@[simp] theorem State.askedSink_det : (s.askedSink).det = s.det := rfl
@[simp] theorem State.askedSink_mbox : (s.askedSink).mbox = s.mbox := rfl
@[simp] theorem State.askedSink_eng : (s.askedSink).eng = s.eng := rfl
@[simp] theorem State.askedSink_ch : (s.askedSink).ch = s.ch := rfl
@[simp] theorem State.askedSink_tx : (s.askedSink).tx = s.tx := rfl
@[simp] theorem State.askedSink_loops : (s.askedSink).loops = s.loops := rfl
@[simp] theorem State.askedSink_port : (s.askedSink).port = s.port := rfl
@[simp] theorem State.askedSink_fa : (s.askedSink).fa = s.fa := rfl
@[simp] theorem State.askedSink_log : (s.askedSink).log = s.log := rfl
@[simp] theorem State.askedSink_resp : (s.askedSink).resp = s.resp := rfl
@[simp] theorem State.askedSink_n : (s.askedSink).n = s.n := rfl
@[simp] theorem State.askedSink_channel (i : Nat) : (s.askedSink).channel i = s.channel i := rfl

end Updates

/-! ### Derived readings -/

theorem State.n_eq (s : State) : s.n = s.cfg.universeSize := rfl
theorem State.channel_eq (s : State) (i : Nat) : s.channel i = Memory.read s.ch i := rfl
@[simp] theorem State.takeMove_sinkOk (s : State) : s.takeMove.sinkOk = s.sinkOk := rfl
@[simp] theorem State.drawn_sinkOk (s : State) : s.drawn.sinkOk = s.sinkOk := rfl
@[simp] theorem State.askedAudio_sinkOk (s : State) : s.askedAudio.sinkOk = s.sinkOk := rfl
@[simp] theorem State.askedSerial_sinkOk (s : State) : s.askedSerial.sinkOk = s.sinkOk := rfl

section AgentUpdates
variable (s : State)

/-! ### noteTick -/

@[simp] theorem noteTick_cfg (now : Time) : (noteTick now s).cfg = s.cfg := rfl
@[simp] theorem noteTick_env (now : Time) : (noteTick now s).env = s.env := rfl
@[simp] theorem noteTick_time (now : Time) : (noteTick now s).time = s.time := rfl
@[simp] theorem noteTick_det (now : Time) : (noteTick now s).det = s.det := rfl
@[simp] theorem noteTick_mbox (now : Time) : (noteTick now s).mbox = s.mbox := rfl
@[simp] theorem noteTick_eng (now : Time) : (noteTick now s).eng = { s.eng with lastTick := now } := rfl
@[simp] theorem noteTick_ch (now : Time) : (noteTick now s).ch = s.ch := rfl
@[simp] theorem noteTick_tx (now : Time) : (noteTick now s).tx = s.tx := rfl
@[simp] theorem noteTick_loops (now : Time) : (noteTick now s).loops = s.loops := rfl
@[simp] theorem noteTick_port (now : Time) : (noteTick now s).port = s.port := rfl
@[simp] theorem noteTick_fa (now : Time) : (noteTick now s).fa = s.fa := rfl
@[simp] theorem noteTick_log (now : Time) : (noteTick now s).log = s.log := rfl
@[simp] theorem noteTick_resp (now : Time) : (noteTick now s).resp = s.resp := rfl
@[simp] theorem noteTick_n (now : Time) : (noteTick now s).n = s.n := rfl

/-! ### tickStop -/

@[simp] theorem tickStop_cfg : (tickStop s).cfg = s.cfg := rfl
@[simp] theorem tickStop_env : (tickStop s).env = s.env := rfl
@[simp] theorem tickStop_time : (tickStop s).time = s.time := rfl
@[simp] theorem tickStop_det : (tickStop s).det = s.det := rfl
@[simp] theorem tickStop_mbox : (tickStop s).mbox = s.mbox := rfl
@[simp] theorem tickStop_eng : (tickStop s).eng = s.eng := rfl
@[simp] theorem tickStop_ch : (tickStop s).ch = s.ch := rfl
@[simp] theorem tickStop_tx : (tickStop s).tx = s.tx := rfl
@[simp] theorem tickStop_loops : (tickStop s).loops = { s.loops with runTick := false, stopTick := false } := rfl
@[simp] theorem tickStop_port : (tickStop s).port = s.port := rfl
@[simp] theorem tickStop_fa : (tickStop s).fa = s.fa := rfl
@[simp] theorem tickStop_log : (tickStop s).log = s.log := rfl
@[simp] theorem tickStop_resp : (tickStop s).resp = s.resp := rfl
@[simp] theorem tickStop_n : (tickStop s).n = s.n := rfl

/-! ### advanceTick -/

@[simp] theorem advanceTick_cfg : (advanceTick s).cfg = s.cfg := by simp only [advanceTick]
@[simp] theorem advanceTick_env : (advanceTick s).env = s.env := by simp only [advanceTick]
@[simp] theorem advanceTick_time : (advanceTick s).time = s.time := by simp only [advanceTick]
@[simp] theorem advanceTick_det : (advanceTick s).det = s.det := by simp only [advanceTick]
@[simp] theorem advanceTick_mbox : (advanceTick s).mbox = s.mbox := by simp only [advanceTick]
@[simp] theorem advanceTick_eng : (advanceTick s).eng = s.eng := by simp only [advanceTick]
@[simp] theorem advanceTick_ch : (advanceTick s).ch = s.ch := by simp only [advanceTick]
@[simp] theorem advanceTick_tx : (advanceTick s).tx = s.tx := by simp only [advanceTick]
@[simp] theorem advanceTick_loops : (advanceTick s).loops =
    { s.loops with nextTick := later s.loops.nextTick tickUs } := by simp only [advanceTick]
@[simp] theorem advanceTick_port : (advanceTick s).port = s.port := by simp only [advanceTick]
@[simp] theorem advanceTick_fa : (advanceTick s).fa = s.fa := by simp only [advanceTick]
@[simp] theorem advanceTick_log : (advanceTick s).log = s.log := by simp only [advanceTick]
@[simp] theorem advanceTick_resp : (advanceTick s).resp = s.resp := by simp only [advanceTick]
@[simp] theorem advanceTick_n : (advanceTick s).n = s.n := by simp only [State.n_eq, advanceTick]

/-! ### popAudio -/

@[simp] theorem popAudio_cfg : (popAudio s).cfg = s.cfg := rfl
@[simp] theorem popAudio_env : (popAudio s).env = { s.env with audio := s.env.audio.tail } := rfl
@[simp] theorem popAudio_time : (popAudio s).time = s.time := rfl
@[simp] theorem popAudio_det : (popAudio s).det = s.det := rfl
@[simp] theorem popAudio_mbox : (popAudio s).mbox = s.mbox := rfl
@[simp] theorem popAudio_eng : (popAudio s).eng = s.eng := rfl
@[simp] theorem popAudio_ch : (popAudio s).ch = s.ch := rfl
@[simp] theorem popAudio_tx : (popAudio s).tx = s.tx := rfl
@[simp] theorem popAudio_loops : (popAudio s).loops = s.loops := rfl
@[simp] theorem popAudio_port : (popAudio s).port = s.port := rfl
@[simp] theorem popAudio_fa : (popAudio s).fa = s.fa := rfl
@[simp] theorem popAudio_log : (popAudio s).log = s.log := rfl
@[simp] theorem popAudio_resp : (popAudio s).resp = s.resp := rfl
@[simp] theorem popAudio_n : (popAudio s).n = s.n := rfl

/-! ### endCapture -/

@[simp] theorem endCapture_cfg : (endCapture s).cfg = s.cfg := rfl
@[simp] theorem endCapture_env : (endCapture s).env = s.env := rfl
@[simp] theorem endCapture_time : (endCapture s).time = s.time := rfl
@[simp] theorem endCapture_det : (endCapture s).det = s.det := rfl
@[simp] theorem endCapture_mbox : (endCapture s).mbox = s.mbox := rfl
@[simp] theorem endCapture_eng : (endCapture s).eng = s.eng := rfl
@[simp] theorem endCapture_ch : (endCapture s).ch = s.ch := rfl
@[simp] theorem endCapture_tx : (endCapture s).tx = s.tx := rfl
@[simp] theorem endCapture_loops : (endCapture s).loops =
    { s.loops with runCapture := false, stopCapture := false } := rfl
@[simp] theorem endCapture_port : (endCapture s).port = s.port := rfl
@[simp] theorem endCapture_fa : (endCapture s).fa = s.fa := rfl
@[simp] theorem endCapture_log : (endCapture s).log = s.log := rfl
@[simp] theorem endCapture_resp : (endCapture s).resp = s.resp := rfl
@[simp] theorem endCapture_n : (endCapture s).n = s.n := rfl

/-! ### captureStop -/

@[simp] theorem captureStop_cfg : (captureStop s).cfg = s.cfg := rfl
@[simp] theorem captureStop_env : (captureStop s).env = s.env := rfl
@[simp] theorem captureStop_time : (captureStop s).time = s.time := rfl
@[simp] theorem captureStop_det : (captureStop s).det = s.det := rfl
@[simp] theorem captureStop_mbox : (captureStop s).mbox = s.mbox := rfl
@[simp] theorem captureStop_eng : (captureStop s).eng = s.eng := rfl
@[simp] theorem captureStop_ch : (captureStop s).ch = s.ch := rfl
@[simp] theorem captureStop_tx : (captureStop s).tx = s.tx := rfl
@[simp] theorem captureStop_loops : (captureStop s).loops =
    { s.loops with runCapture := false, stopCapture := false } := rfl
@[simp] theorem captureStop_port : (captureStop s).port = s.port := rfl
@[simp] theorem captureStop_fa : (captureStop s).fa = { s.fa with cnt := 0 } := rfl
@[simp] theorem captureStop_log : (captureStop s).log = s.log := rfl
@[simp] theorem captureStop_resp : (captureStop s).resp = s.resp := rfl
@[simp] theorem captureStop_n : (captureStop s).n = s.n := rfl

/-! ### degrade -/

@[simp] theorem degrade_cfg : (degrade s).cfg = s.cfg := rfl
@[simp] theorem degrade_env : (degrade s).env = s.env := rfl
@[simp] theorem degrade_time : (degrade s).time = s.time := rfl
@[simp] theorem degrade_det : (degrade s).det = s.det := rfl
@[simp] theorem degrade_mbox : (degrade s).mbox = s.mbox := rfl
@[simp] theorem degrade_eng : (degrade s).eng = s.eng := rfl
@[simp] theorem degrade_ch : (degrade s).ch = s.ch := rfl
@[simp] theorem degrade_tx : (degrade s).tx = { s.tx with virtualSink := true } := rfl
@[simp] theorem degrade_loops : (degrade s).loops = s.loops := rfl
@[simp] theorem degrade_port : (degrade s).port = s.port := rfl
@[simp] theorem degrade_fa : (degrade s).fa = s.fa := rfl
@[simp] theorem degrade_log : (degrade s).log =
    s.log ++ [{ code := .deviceError, agent := .tx, info := 1, time := s.time }] := rfl
@[simp] theorem degrade_resp : (degrade s).resp = s.resp := rfl
@[simp] theorem degrade_n : (degrade s).n = s.n := rfl

/-! ### txStop -/

@[simp] theorem txStop_cfg : (txStop s).cfg = s.cfg := rfl
@[simp] theorem txStop_env : (txStop s).env = s.env := rfl
@[simp] theorem txStop_time : (txStop s).time = s.time := rfl
@[simp] theorem txStop_det : (txStop s).det = s.det := rfl
@[simp] theorem txStop_mbox : (txStop s).mbox = s.mbox := rfl
@[simp] theorem txStop_eng : (txStop s).eng = s.eng := rfl
@[simp] theorem txStop_ch : (txStop s).ch = s.ch := rfl
@[simp] theorem txStop_tx : (txStop s).tx = { s.tx with phase := .idle } := rfl
@[simp] theorem txStop_loops : (txStop s).loops = { s.loops with runTx := false, stopTx := false } := rfl
@[simp] theorem txStop_port : (txStop s).port = s.port := rfl
@[simp] theorem txStop_fa : (txStop s).fa = s.fa := rfl
@[simp] theorem txStop_log : (txStop s).log = s.log := rfl
@[simp] theorem txStop_resp : (txStop s).resp = s.resp := rfl
@[simp] theorem txStop_n : (txStop s).n = s.n := rfl

/-! ### txNextSlot -/

@[simp] theorem txNextSlot_cfg : (txNextSlot s).cfg = s.cfg := rfl
@[simp] theorem txNextSlot_env : (txNextSlot s).env = s.env := rfl
@[simp] theorem txNextSlot_time : (txNextSlot s).time = s.time := rfl
@[simp] theorem txNextSlot_det : (txNextSlot s).det = s.det := rfl
@[simp] theorem txNextSlot_mbox : (txNextSlot s).mbox = s.mbox := rfl
@[simp] theorem txNextSlot_eng : (txNextSlot s).eng = s.eng := rfl
@[simp] theorem txNextSlot_ch : (txNextSlot s).ch = s.ch := rfl
@[simp] theorem txNextSlot_tx : (txNextSlot s).tx = { s.tx with slot := s.tx.slot + 1, bit := 0 } := rfl
@[simp] theorem txNextSlot_loops : (txNextSlot s).loops = s.loops := rfl
@[simp] theorem txNextSlot_port : (txNextSlot s).port = s.port := rfl
@[simp] theorem txNextSlot_fa : (txNextSlot s).fa = s.fa := rfl
@[simp] theorem txNextSlot_log : (txNextSlot s).log = s.log := rfl
@[simp] theorem txNextSlot_resp : (txNextSlot s).resp = s.resp := rfl
@[simp] theorem txNextSlot_n : (txNextSlot s).n = s.n := rfl

/-! ### txSnapshot -/

@[simp] theorem txSnapshot_cfg : (txSnapshot s).cfg = s.cfg := rfl
@[simp] theorem txSnapshot_env : (txSnapshot s).env = s.env := rfl
@[simp] theorem txSnapshot_time : (txSnapshot s).time = s.time := rfl
@[simp] theorem txSnapshot_det : (txSnapshot s).det = s.det := rfl
@[simp] theorem txSnapshot_mbox : (txSnapshot s).mbox = s.mbox := rfl
@[simp] theorem txSnapshot_eng : (txSnapshot s).eng = s.eng := rfl
@[simp] theorem txSnapshot_ch : (txSnapshot s).ch = s.ch := rfl
@[simp] theorem txSnapshot_tx : (txSnapshot s).tx =
    { s.tx with snap := snapshot s, slot := 0, bit := 0, phase := .data } := rfl
@[simp] theorem txSnapshot_loops : (txSnapshot s).loops = s.loops := rfl
@[simp] theorem txSnapshot_port : (txSnapshot s).port = s.port := rfl
@[simp] theorem txSnapshot_fa : (txSnapshot s).fa = s.fa := rfl
@[simp] theorem txSnapshot_log : (txSnapshot s).log = s.log := rfl
@[simp] theorem txSnapshot_resp : (txSnapshot s).resp = s.resp := rfl
@[simp] theorem txSnapshot_n : (txSnapshot s).n = s.n := rfl

end AgentUpdates

end Sys2Proof.Machine
end

