-- ==== Sys2Proof/Laws/Memory.lean ====
section
/-! SUPPORT. The laws of the channel space: read after write, and that every operation keeps the canonical form. -/

namespace Sys2Proof.Machine

/-! ## Canonical form -/

theorem Memory.wf_cons {a : Nat} {v : Byte} {rest : Memory} :
    Memory.wf ((a, v) :: rest) = true ↔
      v ≠ unlistedByte ∧ (∀ c ∈ rest, a < c.1) ∧ Memory.wf rest = true := by
  simp [Memory.wf, and_assoc]

@[simp] theorem Memory.wf_nil : Memory.wf [] = true := rfl

@[simp] theorem Memory.within_nil (n : Nat) : Memory.within n [] = true := rfl

theorem Memory.within_iff {n : Nat} {m : Memory} :
    Memory.within n m = true ↔ ∀ c ∈ m, 1 ≤ c.1 ∧ c.1 ≤ n := by
  simp [Memory.within]

/-- Every address of a written memory was there before or is the written one. -/
theorem Memory.mem_write {m : Memory} {a : Nat} {v : Byte} {c : Host.Cell}
    (h : c ∈ Memory.write m a v) : c ∈ m ∨ c = (a, v) := by
  induction m with
  | nil =>
    simp only [Memory.write] at h
    split at h <;> simp_all
  | cons x rest ih =>
    obtain ⟨b, w⟩ := x
    simp only [Memory.write] at h
    split at h
    · split at h <;> simp_all
      tauto
    · split at h
      · split at h <;> simp_all
        tauto
      · rcases List.mem_cons.1 h with rfl | h
        · simp
        · rcases ih h with h | h <;> simp [h]

theorem Memory.write_wf {m : Memory} (a : Nat) (v : Byte) (hm : Memory.wf m = true) :
    Memory.wf (Memory.write m a v) = true := by
  induction m with
  | nil =>
    simp only [Memory.write]
    split
    · rfl
    · simp [Memory.wf, *]
  | cons x rest ih =>
    obtain ⟨b, w⟩ := x
    obtain ⟨hw, hlt, hrest⟩ := Memory.wf_cons.1 hm
    simp only [Memory.write]
    split
    · rename_i hab
      split
      · exact hm
      · rename_i hv
        refine Memory.wf_cons.2 ⟨hv, ?_, hm⟩
        intro c hc
        rcases List.mem_cons.1 hc with rfl | hc
        · exact hab
        · exact hab.trans (hlt c hc)
    · rename_i hab
      split
      · rename_i heq
        subst heq
        split
        · exact hrest
        · rename_i hv
          exact Memory.wf_cons.2 ⟨hv, hlt, hrest⟩
      · rename_i hne
        refine Memory.wf_cons.2 ⟨hw, ?_, ih hrest⟩
        intro c hc
        rcases Memory.mem_write hc with hc | rfl
        · exact hlt c hc
        · simp only
          omega

theorem Memory.write_within {n : Nat} {m : Memory} {a : Nat} (v : Byte) (ha : 1 ≤ a ∧ a ≤ n)
    (hm : Memory.within n m = true) : Memory.within n (Memory.write m a v) = true := by
  rw [Memory.within_iff] at *
  intro c hc
  rcases Memory.mem_write hc with hc | rfl
  · exact hm c hc
  · exact ha

theorem Memory.writeAll_wf {m : Memory} (cells : List Host.Cell) (hm : Memory.wf m = true) :
    Memory.wf (Memory.writeAll m cells) = true := by
  induction cells generalizing m with
  | nil => exact hm
  | cons c rest ih => exact ih (Memory.write_wf c.1 c.2 hm)

theorem Memory.writeAll_within {n : Nat} {m : Memory} {cells : List Host.Cell}
    (hc : ∀ c ∈ cells, 1 ≤ c.1 ∧ c.1 ≤ n) (hm : Memory.within n m = true) :
    Memory.within n (Memory.writeAll m cells) = true := by
  induction cells generalizing m with
  | nil => exact hm
  | cons c rest ih =>
    exact ih (fun x hx => hc x (List.mem_cons_of_mem _ hx))
      (Memory.write_within c.2 (hc c List.mem_cons_self) hm)

/-! ## Read after write -/

/-- In canonical form an address below every listed one is unlisted. -/
theorem Memory.read_below {m : Memory} {a : Nat} (h : ∀ c ∈ m, a < c.1) :
    Memory.read m a = unlistedByte := by
  induction m with
  | nil => rfl
  | cons x rest ih =>
    obtain ⟨b, w⟩ := x
    have hab : a ≠ b := Nat.ne_of_lt (h (b, w) List.mem_cons_self)
    simp only [Memory.read, hab, if_false]
    exact ih fun c hc => h c (List.mem_cons_of_mem _ hc)

theorem Memory.read_write_same {m : Memory} (a : Nat) (v : Byte) (hm : Memory.wf m = true) :
    Memory.read (Memory.write m a v) a = v := by
  induction m with
  | nil =>
    simp only [Memory.write]
    split <;> simp [Memory.read, *]
  | cons x rest ih =>
    obtain ⟨b, w⟩ := x
    obtain ⟨hw, hlt, hrest⟩ := Memory.wf_cons.1 hm
    simp only [Memory.write]
    split
    · rename_i hab
      split
      · rename_i hv
        rw [hv]
        refine Memory.read_below fun c hc => ?_
        rcases List.mem_cons.1 hc with rfl | hc
        · exact hab
        · exact hab.trans (hlt c hc)
      · simp [Memory.read]
    · split
      · rename_i heq
        subst heq
        split
        · rename_i hv
          rw [hv]
          exact Memory.read_below hlt
        · simp [Memory.read]
      · rename_i hne
        simpa [Memory.read, hne] using ih hrest

/-- A write leaves every other cell alone, in canonical form or not. -/
theorem Memory.read_write_other {m : Memory} {a b : Nat} (v : Byte) (hab : b ≠ a) :
    Memory.read (Memory.write m a v) b = Memory.read m b := by
  induction m with
  | nil =>
    simp only [Memory.write]
    split <;> simp [Memory.read, hab]
  | cons x rest ih =>
    obtain ⟨c, w⟩ := x
    simp only [Memory.write]
    split
    · split <;> simp [Memory.read, hab]
    · split
      · rename_i heq
        subst heq
        split <;> simp [Memory.read, hab]
      · simp [Memory.read, ih]

theorem Memory.read_writeAll_other {m : Memory} {cells : List Host.Cell} {a : Nat}
    (h : ∀ c ∈ cells, c.1 ≠ a) : Memory.read (Memory.writeAll m cells) a = Memory.read m a := by
  induction cells generalizing m with
  | nil => rfl
  | cons c rest ih =>
    have hc : a ≠ c.1 := (h c List.mem_cons_self).symm
    calc Memory.read (Memory.writeAll (Memory.write m c.1 c.2) rest) a
        = Memory.read (Memory.write m c.1 c.2) a := ih fun x hx => h x (List.mem_cons_of_mem _ hx)
      _ = Memory.read m a := Memory.read_write_other _ hc

/-- The last write to a cell wins (43_transport.md R261). -/
theorem Memory.read_writeAll_last {m : Memory} {before after : List Host.Cell} {a : Nat} {v : Byte}
    (hm : Memory.wf m = true) (h : ∀ c ∈ after, c.1 ≠ a) :
    Memory.read (Memory.writeAll m (before ++ (a, v) :: after)) a = v := by
  have hsplit : Memory.writeAll m (before ++ (a, v) :: after) =
      Memory.writeAll (Memory.write (Memory.writeAll m before) a v) after := by
    simp [Memory.writeAll]
  rw [hsplit, Memory.read_writeAll_other h]
  exact Memory.read_write_same a v (Memory.writeAll_wf before hm)

/-! ## Fill -/

/-- A list of cells in canonical form is determined by its order and its values. -/
theorem Memory.wf_iff {m : Memory} :
    Memory.wf m = true ↔ m.Pairwise (fun c d => c.1 < d.1) ∧ ∀ c ∈ m, c.2 ≠ unlistedByte := by
  induction m with
  | nil => simp [Memory.wf]
  | cons x rest ih =>
    obtain ⟨a, v⟩ := x
    rw [Memory.wf_cons, ih, List.pairwise_cons]
    simp only [List.mem_cons, forall_eq_or_imp]
    tauto

/-- The cells a fill writes. -/
def filledCells (n : Nat) (v : Byte) : Memory :=
  if v = unlistedByte then [] else (List.range n).map fun i => (i + 1, v)

theorem Memory.fill_eq (m : Memory) (n : Nat) (v : Byte) :
    Memory.fill m n v =
      m.filter (fun c => c.1 < 1) ++ filledCells n v ++ m.filter (fun c => n < c.1) := rfl

theorem mem_filledCells {n : Nat} {v : Byte} {c : Host.Cell} (h : c ∈ filledCells n v) :
    1 ≤ c.1 ∧ c.1 ≤ n ∧ c.2 = v ∧ v ≠ unlistedByte := by
  unfold filledCells at h
  split at h
  · simp at h
  · simp only [List.mem_map, List.mem_range] at h
    obtain ⟨i, hi, rfl⟩ := h
    exact ⟨by simp, by simpa using hi, rfl, by assumption⟩

theorem filledCells_pairwise (n : Nat) (v : Byte) :
    (filledCells n v).Pairwise (fun c d => c.1 < d.1) := by
  unfold filledCells
  split
  · exact List.Pairwise.nil
  · rw [List.pairwise_map]
    exact List.pairwise_lt_range.imp fun h => by simpa using h

theorem Memory.fill_wf {m : Memory} (n : Nat) (v : Byte) (hm : Memory.wf m = true) :
    Memory.wf (Memory.fill m n v) = true := by
  rw [Memory.wf_iff] at hm
  obtain ⟨hord, hval⟩ := hm
  rw [Memory.fill_eq, Memory.wf_iff]
  constructor
  · refine List.pairwise_append.2 ⟨List.pairwise_append.2 ⟨hord.filter _, filledCells_pairwise n v, ?_⟩,
      hord.filter _, ?_⟩
    · intro c hc d hd
      have h1 := (List.mem_filter.1 hc).2
      have h2 := (mem_filledCells hd).1
      simp only [decide_eq_true_eq] at h1
      omega
    · intro c hc d hd
      have h2 := (List.mem_filter.1 hd).2
      simp only [decide_eq_true_eq] at h2
      rcases List.mem_append.1 hc with hc | hc
      · have h1 := (List.mem_filter.1 hc).2
        simp only [decide_eq_true_eq] at h1
        omega
      · have h1 := (mem_filledCells hc).2.1
        omega
  · intro c hc
    rcases List.mem_append.1 hc with hc | hc
    · rcases List.mem_append.1 hc with hc | hc
      · exact hval c (List.mem_filter.1 hc).1
      · obtain ⟨-, -, hv, hne⟩ := mem_filledCells hc
        rw [hv]
        exact hne
    · exact hval c (List.mem_filter.1 hc).1

theorem Memory.fill_within {m : Memory} (n : Nat) (v : Byte) (hm : Memory.within n m = true) :
    Memory.within n (Memory.fill m n v) = true := by
  rw [Memory.within_iff] at *
  intro c hc
  rw [Memory.fill_eq] at hc
  rcases List.mem_append.1 hc with hc | hc
  · rcases List.mem_append.1 hc with hc | hc
    · exact hm c (List.mem_filter.1 hc).1
    · exact ⟨(mem_filledCells hc).1, (mem_filledCells hc).2.1⟩
  · exact hm c (List.mem_filter.1 hc).1

theorem Memory.read_append {m₁ m₂ : Memory} {a : Nat} (h : ∀ c ∈ m₁, c.1 ≠ a) :
    Memory.read (m₁ ++ m₂) a = Memory.read m₂ a := by
  induction m₁ with
  | nil => rfl
  | cons x rest ih =>
    obtain ⟨b, w⟩ := x
    have hb : a ≠ b := (h (b, w) List.mem_cons_self).symm
    simp only [List.cons_append, Memory.read, hb, if_false]
    exact ih fun c hc => h c (List.mem_cons_of_mem _ hc)

theorem Memory.read_append_left {m₁ m₂ : Memory} {a : Nat} (h : ∀ c ∈ m₂, c.1 ≠ a) :
    Memory.read (m₁ ++ m₂) a = Memory.read m₁ a := by
  induction m₁ with
  | nil =>
    have := Memory.read_append (m₁ := m₂) (m₂ := []) h
    simpa [Memory.read] using this
  | cons x rest ih =>
    obtain ⟨b, w⟩ := x
    simp only [List.cons_append, Memory.read, ih]

theorem Memory.read_filter {m : Memory} {a : Nat} (p : Host.Cell → Bool)
    (h : ∀ v, p (a, v) = true) : Memory.read (m.filter p) a = Memory.read m a := by
  induction m with
  | nil => rfl
  | cons x rest ih =>
    obtain ⟨b, w⟩ := x
    by_cases hab : a = b
    · subst hab
      simp [Memory.read, h w]
    · by_cases hp : p (b, w) = true
      · simp [Memory.read, hp, hab, ih]
      · simp [Memory.read, hp, hab, ih]

theorem read_filledCells {n : Nat} {v : Byte} {a : Nat} (ha : 1 ≤ a ∧ a ≤ n) :
    Memory.read (filledCells n v) a = v := by
  unfold filledCells
  split
  · rename_i hv
    rw [hv]
    rfl
  · induction n with
    | zero => omega
    | succ k ih =>
      rw [List.range_succ, List.map_append]
      by_cases hk : a ≤ k
      · rw [Memory.read_append_left]
        · exact ih ⟨ha.1, hk⟩
        · simp
          omega
      · have : a = k + 1 := by omega
        rw [Memory.read_append]
        · simp [Memory.read, this]
        · simp only [List.mem_map, List.mem_range]
          rintro c ⟨i, hi, rfl⟩
          simp only
          omega

theorem Memory.read_fill_inside {m : Memory} {n : Nat} (v : Byte) {a : Nat} (ha : 1 ≤ a ∧ a ≤ n) :
    Memory.read (Memory.fill m n v) a = v := by
  rw [Memory.fill_eq, Memory.read_append_left, Memory.read_append]
  · exact read_filledCells ha
  · intro c hc
    have := (List.mem_filter.1 hc).2
    simp only [decide_eq_true_eq] at this
    omega
  · intro c hc
    have := (List.mem_filter.1 hc).2
    simp only [decide_eq_true_eq] at this
    omega

theorem Memory.read_fill_outside {m : Memory} {n : Nat} (v : Byte) {a : Nat} (ha : a < 1 ∨ n < a) :
    Memory.read (Memory.fill m n v) a = Memory.read m a := by
  rw [Memory.fill_eq]
  rcases ha with ha | ha
  · rw [Memory.read_append_left, Memory.read_append_left]
    · exact Memory.read_filter _ (by simp; omega)
    · intro c hc
      have := (mem_filledCells hc).1
      omega
    · intro c hc
      have := (List.mem_filter.1 hc).2
      simp only [decide_eq_true_eq] at this
      omega
  · rw [List.append_assoc, Memory.read_append, Memory.read_append]
    · exact Memory.read_filter _ (by simpa using ha)
    · intro c hc
      have := (mem_filledCells hc).2.1
      omega
    · intro c hc
      have := (List.mem_filter.1 hc).2
      simp only [decide_eq_true_eq] at this
      omega

end Sys2Proof.Machine
end

