-- ==== Sys2Proof/Laws/Ops.lean ====
section
/-! SUPPORT. One lemma for each shared operation that says once everything it can do: what changes, and that nothing
else does. The provers cite these and need not unfold the operations. -/

namespace Sys2Proof.Machine

/-! ## Frames as data -/

/-- `t` differs from `s` at most in the engine registers, the channels and the coming draws. -/
structure RenderFrame (s t : State) : Prop where
  state : t = { s with eng := t.eng, env := t.env, ch := t.ch }
  draws : t.env = { s.env with draws := t.env.draws, drawsMade := t.env.drawsMade }

theorem RenderFrame.refl (s : State) : RenderFrame s s := ⟨rfl, rfl⟩

theorem RenderFrame.trans {s t u : State} (h : RenderFrame s t) (k : RenderFrame t u) : RenderFrame s u := by
  constructor
  · rw [k.state, h.state]
  · rw [k.draws, h.draws]

section Projections
variable {s t : State} (h : RenderFrame s t)
include h

theorem RenderFrame.cfg : t.cfg = s.cfg := by rw [h.state]
theorem RenderFrame.time : t.time = s.time := by rw [h.state]
theorem RenderFrame.det : t.det = s.det := by rw [h.state]
theorem RenderFrame.mbox : t.mbox = s.mbox := by rw [h.state]
theorem RenderFrame.tx : t.tx = s.tx := by rw [h.state]
theorem RenderFrame.loops : t.loops = s.loops := by rw [h.state]
theorem RenderFrame.port : t.port = s.port := by rw [h.state]
theorem RenderFrame.fa : t.fa = s.fa := by rw [h.state]
theorem RenderFrame.log : t.log = s.log := by rw [h.state]
theorem RenderFrame.resp : t.resp = s.resp := by rw [h.state]
theorem RenderFrame.sinkOk : t.sinkOk = s.sinkOk := by
  unfold State.sinkOk
  rw [h.draws]
theorem RenderFrame.n : t.n = s.n := by rw [State.n_eq, State.n_eq, h.cfg]

end Projections

/-! ## The fetch and the port -/

/-- The three things an arriving word can do (30_encoding.md R100). -/
theorem receiveWord_cases (s : State) (w : Word) :
    (s.port.cBuf = [] ∧
      s.receiveWord w = { s with port := { cBuf := [w], cNeed := BitVec.ofNat 12 (operandWords w) } }) ∨
    (s.port.cBuf ≠ [] ∧ s.port.cNeed = 0 ∧ s.receiveWord w = s) ∨
    (s.port.cBuf ≠ [] ∧ s.port.cNeed ≠ 0 ∧
      s.receiveWord w = { s with port := { cBuf := s.port.cBuf ++ [w], cNeed := s.port.cNeed - 1 } }) := by
  unfold State.receiveWord
  by_cases hb : s.port.cBuf = []
  · exact .inl ⟨hb, by simp [hb]⟩
  · by_cases hn : s.port.cNeed = 0#12
    · exact .inr (.inl ⟨hb, hn, by simp [hb, hn]⟩)
    · exact .inr (.inr ⟨hb, hn, by simp [hb, hn]⟩)

/-- Words that are no command are answered, or are no words C_BUF can hold (30_encoding.md R120). -/
theorem raiseUndecoded_cases (e : DecodeError) (s : State) :
    (∃ info, raiseUndecoded e s = .next (s.refuse .illegalCommand info)) ∨
      raiseUndecoded e s = .fault .portInconsistent := by
  cases e <;> simp [raiseUndecoded, raise]

/-! ## Beats -/

/-- BEAT_PROC writes engine registers and takes draws, nothing else (41_engine_control.md R192). -/
theorem beatProc_frame (d : Descriptor) (ts : Time) (s : State) :
    RenderFrame s (beatProc d ts s) ∧ (beatProc d ts s).ch = s.ch := by
  unfold beatProc beatActions recolor randomizeBase rotateBase
  cases d.onBeat <;> cases decays d.kind <;> dsimp only <;> split <;> exact ⟨⟨rfl, rfl⟩, rfl⟩

/-- The registers BEAT_PROC never writes, and those it always writes. -/
theorem beatProc_eng (d : Descriptor) (ts : Time) (s : State) :
    (beatProc d ts s).eng.preset = s.eng.preset ∧ (beatProc d ts s).eng.lastTick = s.eng.lastTick ∧
      (beatProc d ts s).eng.audioReactive = s.eng.audioReactive ∧ (beatProc d ts s).eng.addr = s.eng.addr ∧
      (beatProc d ts s).eng.bpm = s.eng.bpm ∧ (beatProc d ts s).eng.beatCount = s.eng.beatCount + 1 ∧
      (beatProc d ts s).eng.lastBeat = ts ∧ (beatProc d ts s).eng.lbValid = true := by
  unfold beatProc beatActions recolor randomizeBase rotateBase
  cases d.onBeat <;> cases decays d.kind <;> dsimp only <;> split <;>
    exact ⟨rfl, rfl, rfl, rfl, rfl, rfl, rfl, rfl⟩

/-- BEAT_PROC leaves the envelope alone or fills it. -/
theorem beatProc_envelope (d : Descriptor) (ts : Time) (s : State) :
    (beatProc d ts s).eng.envelope = s.eng.envelope ∨ (beatProc d ts s).eng.envelope = 65536 := by
  unfold beatProc beatActions recolor randomizeBase rotateBase
  cases d.onBeat <;> cases decays d.kind <;> dsimp only <;> split <;> first | exact .inl rfl | exact .inr rfl

/-- The gates of a beat: ignored, or processed by BEAT_PROC (41_engine_control.md R190, R191). -/
theorem tryBeat_cases (d : Descriptor) (ts : Time) (s : State) :
    ((d.kind = .blackout ∨ debounced ts s.eng = true) ∧ tryBeat d ts s = (false, s)) ∨
      (d.kind ≠ .blackout ∧ debounced ts s.eng = false ∧ tryBeat d ts s = (true, beatProc d ts s)) := by
  unfold tryBeat
  by_cases hk : d.kind = .blackout
  · exact .inl ⟨.inl hk, by simp [hk]⟩
  · cases hd : debounced ts s.eng
    · exact .inr ⟨hk, rfl, by simp [hk]⟩
    · exact .inl ⟨.inr rfl, by simp [hk]⟩

theorem tryBeat_frame (d : Descriptor) (ts : Time) (s : State) :
    RenderFrame s (tryBeat d ts s).2 ∧ (tryBeat d ts s).2.ch = s.ch := by
  rcases tryBeat_cases d ts s with ⟨-, h⟩ | ⟨-, -, h⟩ <;> rw [h]
  · exact ⟨RenderFrame.refl s, rfl⟩
  · exact beatProc_frame d ts s

/-- What a passed gate says of the clock (41_engine_control.md R195). -/
theorem not_debounced {ts : Time} {e : Engine} (h : debounced ts e = false) (hv : e.lbValid = true) :
    e.lastBeat.toNat + 200000 < ts.toNat := by
  simp only [debounced, hv, Bool.true_and, decide_eq_false_iff_not, not_le] at h
  simp only [satSub, debounceUs] at h
  omega

/-- The active descriptor, once it is found, is the entry of the table and well-formed. -/
theorem activeDesc_ok {s : State} {d : Descriptor} (h : activeDesc s = .ok d) :
    s.cfg.presetTable[s.eng.preset.toNat]? = some d ∧ d.wf = true ∧
      (d.onBeat = .randomize → s.cfg.randomPalette ≠ []) := by
  unfold activeDesc at h
  split at h
  · cases h
  · rename_i d' hd
    split at h
    · cases h
    · split at h
      · cases h
      · rename_i hw hp
        cases h
        refine ⟨hd, by simpa using hw, ?_⟩
        intro hr hn
        apply hp
        simp [hr, hn]

theorem activeDesc_of {s : State} {d : Descriptor} (h : ActiveIs s d) : activeDesc s = .ok d := by
  unfold activeDesc
  rw [h.entry]
  simp [h.wf, h.palette]

/-- A beat operation that does not fault went through the gates, or was kept out by the audio-reactive one. -/
theorem onBeat_ok {ts : Time} {s : State} {p : Bool × State} (h : onBeat ts s = .ok p) :
    p = (false, s) ∨ ∃ d, activeDesc s = .ok d ∧ s.eng.audioReactive = true ∧ p = tryBeat d ts s := by
  unfold onBeat at h
  split at h
  · rename_i hr
    unfold trigger at h
    split at h
    · cases h
    · rename_i d hd
      cases h
      exact .inr ⟨d, hd, hr, rfl⟩
  · cases h
    exact .inl rfl

theorem trigger_ok {ts : Time} {s : State} {p : Bool × State} (h : trigger ts s = .ok p) :
    ∃ d, activeDesc s = .ok d ∧ p = tryBeat d ts s := by
  unfold trigger at h
  split at h
  · cases h
  · rename_i d hd
    cases h
    exact ⟨d, hd, rfl⟩

theorem answerProcessed_next {r : Except Fault (Bool × State)} {t : State} (h : answerProcessed r = .next t) :
    ∃ p, r = .ok p ∧ t = p.2.respondOk (processedBit p.1) := by
  unfold answerProcessed at h
  split at h
  · cases h
  · rename_i p
    cases h
    exact ⟨p, rfl, rfl⟩

/-! ## UPDATE -/

theorem glitchDraw_cases (d : Descriptor) (s : State) :
    (d.kind = .glitch ∧ glitchDraw d s = (s.draw 65536, s.drawn)) ∨ (d.kind ≠ .glitch ∧ glitchDraw d s = (0, s)) := by
  unfold glitchDraw
  by_cases hk : d.kind = .glitch
  · exact .inl ⟨hk, by simp [hk]⟩
  · exact .inr ⟨hk, by simp [hk]⟩

/-- The second duty: the look's cells are written, and the envelope decays for the kinds that decay
(42_engine_render.md R210, R230). -/
theorem paint_eq (d : Descriptor) (now : Time) (s : State) :
    paint d now s = { s with
      ch := Memory.writeAll s.ch (lookCells s.eng.addr (look d s.eng now (glitchDraw d s).1))
      eng := { s.eng with envelope := if decays d.kind then decayed s.eng.envelope else s.eng.envelope }
      env := (glitchDraw d s).2.env } := by
  have hg : (glitchDraw d s).2 = { s with env := (glitchDraw d s).2.env } := by
    unfold glitchDraw
    split <;> rfl
  unfold paint
  generalize glitchDraw d s = g at hg ⊢
  obtain ⟨u, t⟩ := g
  dsimp only at hg ⊢
  rw [hg]
  unfold decayStep State.writeChannels
  cases decays d.kind <;> simp only [Bool.false_eq_true, if_false, if_true]

theorem paint_frame (d : Descriptor) (now : Time) (s : State) : RenderFrame s (paint d now s) := by
  rw [paint_eq]
  refine ⟨by dsimp only, ?_⟩
  dsimp only
  unfold glitchDraw
  split <;> rfl

theorem synthesize_cases (d : Descriptor) (now : Time) (s : State) :
    synthesize d now s = (false, s) ∨
      (synthesisDue now s.eng = true ∧ d.kind ≠ .blackout ∧ debounced now s.eng = false ∧
        synthesize d now s = (true, beatProc d now s)) := by
  unfold synthesize
  cases hd : synthesisDue now s.eng
  · exact .inl rfl
  · rcases tryBeat_cases d now s with ⟨-, h⟩ | ⟨hk, hb, h⟩
    · exact .inl (by simp [h])
    · exact .inr ⟨rfl, hk, hb, by simp [h]⟩

theorem synthesize_frame (d : Descriptor) (now : Time) (s : State) :
    RenderFrame s (synthesize d now s).2 ∧ (synthesize d now s).2.ch = s.ch := by
  rcases synthesize_cases d now s with h | ⟨-, -, -, h⟩ <;> rw [h]
  · exact ⟨RenderFrame.refl s, rfl⟩
  · exact beatProc_frame d now s

theorem noteTick_frame (now : Time) (s : State) : RenderFrame s (noteTick now s) := ⟨rfl, rfl⟩

theorem updateWith_frame (d : Descriptor) (now : Time) (s : State) : RenderFrame s (updateWith d now s).2 :=
  ((synthesize_frame d now s).1.trans (noteTick_frame now _)).trans (paint_frame d now _)

theorem updateReady_ok {s : State} {d : Descriptor} (h : updateReady s = .ok d) :
    activeDesc s = .ok d ∧ s.eng.bpm ≠ 0 ∧ rangesFit s.n s.eng.addr = true := by
  unfold updateReady at h
  split at h
  · cases h
  · rename_i d' hd
    split at h
    · cases h
    · split at h
      · cases h
      · rename_i hb hr
        cases h
        exact ⟨hd, hb, by simpa using hr⟩

theorem updateReady_of {s : State} {d : Descriptor} (h : Renderable s d) : updateReady s = .ok d := by
  unfold updateReady
  rw [activeDesc_of h.toActiveIs]
  simp only [h.tempo, if_false, h.ranges, Bool.not_true, Bool.false_eq_true]

theorem updateOp_ok {now : Time} {s : State} {p : Bool × State} (h : updateOp now s = .ok p) :
    ∃ d, updateReady s = .ok d ∧ p = updateWith d now s := by
  unfold updateOp at h
  split at h
  · cases h
  · rename_i d hd
    cases h
    exact ⟨d, hd, rfl⟩

theorem ownedCell_iff {a : PerFixture (BitVec 10)} {i : Nat} : ownedCell a i = true ↔
    (a.panelA.toNat ≤ i ∧ i < a.panelA.toNat + 3) ∨ (a.panelB.toNat ≤ i ∧ i < a.panelB.toNat + 3) ∨
      (a.bar.toNat ≤ i ∧ i < a.bar.toNat + 14) := by
  simp only [ownedCell, ownsCell, Bool.or_eq_true, Bool.and_eq_true, decide_eq_true_eq, or_assoc]
  rfl

theorem rangesFit_iff {n : Nat} {a : PerFixture (BitVec 10)} : rangesFit n a = true ↔
    (1 ≤ a.panelA.toNat ∧ a.panelA.toNat + 3 - 1 ≤ n) ∧ (1 ≤ a.panelB.toNat ∧ a.panelB.toNat + 3 - 1 ≤ n) ∧
      (1 ≤ a.bar.toNat ∧ a.bar.toNat + 14 - 1 ≤ n) := by
  simp only [rangesFit, rangeFits, Bool.and_eq_true, decide_eq_true_eq, and_assoc]
  rfl

/-- The cells a look writes are cells the fixtures own (42_engine_render.md R216). -/
theorem lookCells_owned {a : PerFixture (BitVec 10)} {l : PerFixture Shade} {c : Host.Cell} (h : c ∈ lookCells a l) :
    ownedCell a c.1 = true := by
  simp only [lookCells, fixtureCells, List.mem_append, List.mem_map] at h
  simp only [ownedCell_iff]
  rcases h with (⟨x, hx, rfl⟩ | ⟨x, hx, rfl⟩) | ⟨x, hx, rfl⟩
  all_goals
    have hlt := (List.mem_zipIdx hx).2.1
    simp only [panelBytes, barBytes, scale3, List.length_append, List.length_cons, List.length_nil] at hlt
    omega

/-- A fixture inside 1..N owns cells of 1..N only (10_state.md R36). -/
theorem ownedCell_within {n : Nat} {a : PerFixture (BitVec 10)} (hf : rangesFit n a = true) {i : Nat}
    (h : ownedCell a i = true) : 1 ≤ i ∧ i ≤ n := by
  rw [rangesFit_iff] at hf
  rw [ownedCell_iff] at h
  omega

/-! ## The devices START asks -/

/-- Asking the devices changes the answers to come and nothing else (44_orchestrator.md R302, R303). -/
theorem askDevices_frame (mask : BitVec 3) (s : State) :
    askDevices mask s = { s with env := (askDevices mask s).env } ∧
      (askDevices mask s).env.moves = s.env.moves ∧ (askDevices mask s).env.movesMade = s.env.movesMade ∧
      (askDevices mask s).sinkOk = s.sinkOk := by
  unfold askDevices
  split <;> split <;> exact ⟨rfl, rfl, rfl, rfl⟩

/-- `t` differs from `s` at most in what START's three parts write (44_orchestrator.md R303, R309). -/
structure StartFrame (s t : State) : Prop where
  state : t = { s with loops := t.loops, det := t.det, fa := t.fa, tx := t.tx }
  tx : t.tx = { s.tx with phase := t.tx.phase, nextStart := t.tx.nextStart }
  det : t.det = s.det ∨ t.det = { s.det with failCnt := 0 }

theorem StartFrame.refl (s : State) : StartFrame s s := ⟨rfl, rfl, .inl rfl⟩

theorem StartFrame.trans {s t u : State} (h : StartFrame s t) (k : StartFrame t u) : StartFrame s u := by
  refine ⟨by rw [k.state, h.state], by rw [k.tx, h.tx], ?_⟩
  rcases h.det with h | h <;> rcases k.det with k | k <;> simp [h, k]

theorem startCapture_frame (a : Bool) (s : State) : StartFrame s (startCapture a s) := by
  unfold startCapture
  split
  · exact ⟨rfl, rfl, .inl rfl⟩
  · split
    · exact ⟨rfl, rfl, .inr rfl⟩
    · exact StartFrame.refl s

theorem startTick_frame (s : State) : StartFrame s (startTick s) := by
  unfold startTick
  split <;> exact ⟨rfl, rfl, .inl rfl⟩

theorem startTx_frame (s : State) : StartFrame s (startTx s) := by
  unfold startTx
  split <;> exact ⟨rfl, rfl, .inl rfl⟩

theorem startLoops_frame (mask : BitVec 3) (a : Bool) (s : State) : StartFrame s (startLoops mask a s) := by
  have h1 : StartFrame s (if namesCapture mask then startCapture a s else s) := by
    split
    · exact startCapture_frame a s
    · exact StartFrame.refl s
  have h2 : ∀ u, StartFrame u (if namesTick mask then startTick u else u) := by
    intro u
    split
    · exact startTick_frame u
    · exact StartFrame.refl u
  have h3 : ∀ u, StartFrame u (if namesTx mask then startTx u else u) := by
    intro u
    split
    · exact startTx_frame u
    · exact StartFrame.refl u
  exact (h1.trans (h2 _)).trans (h3 _)

/-- The three ends of START (44_orchestrator.md R304): fatal; or the loops started, after a fall back or not, and the
answer OK or the audio device's failure. -/
theorem startResult_cases (mask : BitVec 3) (s : State) :
    (serialOk mask s = false ∧ s.cfg.fallbackEn = false ∧
      startResult mask s = (askDevices mask s).refuse .deviceError (4 + if audioOk mask s then 0 else 1)) ∨
    ∃ u v, ((serialOk mask s = true ∧ u = askDevices mask s) ∨
        (serialOk mask s = false ∧ s.cfg.fallbackEn = true ∧ u = degrade (askDevices mask s))) ∧
      v = startLoops mask (audioOk mask s) u ∧
      ((audioOk mask s = true ∧ startResult mask s = v.respondOk (runBits v.loops)) ∨
        (audioOk mask s = false ∧ startResult mask s = v.refuse .deviceError 1)) := by
  unfold startResult
  dsimp only
  cases hs : serialOk mask s <;> cases hf : s.cfg.fallbackEn
  · exact .inl ⟨rfl, rfl, rfl⟩
  · refine .inr ⟨_, _, .inr ⟨rfl, rfl, rfl⟩, rfl, ?_⟩
    cases audioOk mask s
    · exact .inr ⟨rfl, rfl⟩
    · exact .inl ⟨rfl, rfl⟩
  · refine .inr ⟨_, _, .inl ⟨rfl, rfl⟩, rfl, ?_⟩
    cases audioOk mask s
    · exact .inr ⟨rfl, rfl⟩
    · exact .inl ⟨rfl, rfl⟩
  · refine .inr ⟨_, _, .inl ⟨rfl, rfl⟩, rfl, ?_⟩
    cases audioOk mask s
    · exact .inr ⟨rfl, rfl⟩
    · exact .inl ⟨rfl, rfl⟩

/-! ## The environment's time -/

/-- The three outcomes of the move `time` (44_orchestrator.md R302, R308). -/
theorem advanceTime_cases (d : Nat) (s : State) :
    (beforeDeadlines s (s.time.toNat + d) = false ∧ advanceTime d s = .next s) ∨
    (beforeDeadlines s (s.time.toNat + d) = true ∧ 2 ^ 63 ≤ s.time.toNat + d ∧
      advanceTime d s = .refused .timeBeyondPremise) ∨
    (beforeDeadlines s (s.time.toNat + d) = true ∧ s.time.toNat + d < 2 ^ 63 ∧
      advanceTime d s = .next { s with time := later s.time d } ∧ (later s.time d).toNat = s.time.toNat + d) := by
  unfold advanceTime
  cases hb : beforeDeadlines s (s.time.toNat + d)
  · exact .inl ⟨rfl, rfl⟩
  · by_cases ht : 2 ^ 63 ≤ s.time.toNat + d
    · exact .inr (.inl ⟨rfl, ht, by rw [if_pos ht]; rfl⟩)
    · refine .inr (.inr ⟨rfl, by omega, by rw [if_neg ht]; rfl, ?_⟩)
      simp only [later, BitVec.toNat_ofNat]
      omega

/-! ## The ticker -/

/-- The four outcomes of the ticker's step (44_orchestrator.md R305). -/
theorem tickStep_next {s t : State} (h : tickStep s = .next t) :
    (tickEnabled s = false ∧ t = s) ∨ (tickEnabled s = true ∧ s.loops.stopTick = true ∧ t = tickStop s) ∨
      (tickEnabled s = true ∧ s.loops.stopTick = false ∧
        ∃ d, updateReady s = .ok d ∧ t = advanceTick (updateWith d s.time s).2) := by
  unfold tickStep at h
  cases he : tickEnabled s
  · simp [he] at h
    exact .inl ⟨rfl, h.symm⟩
  · cases hs : s.loops.stopTick
    · simp only [he, hs, Bool.not_true, Bool.false_eq_true, if_false] at h
      split at h
      · cases h
      · rename_i p hp
        cases h
        obtain ⟨d, hd, rfl⟩ := updateOp_ok hp
        exact .inr (.inr ⟨rfl, rfl, d, hd, rfl⟩)
    · simp [he, hs] at h
      exact .inr (.inl ⟨rfl, rfl, h.symm⟩)

/-! ## The capture agent -/

/-- What the capture agent's step can be (40_beat_detector.md R156, R157). -/
theorem captureStep_next {s t : State} (h : captureStep s = .next t) :
    (s.mbox.valid = true ∧ ∃ p, onBeat s.mbox.ts s = .ok p ∧
      t = { p.2 with mbox := { p.2.mbox with valid := false } }) ∨
    (s.mbox.valid = false ∧ t = s) ∨
    (s.mbox.valid = false ∧ s.loops.runCapture = true ∧ s.loops.stopCapture = true ∧ t = captureStop s) ∨
    (s.mbox.valid = false ∧ s.loops.runCapture = true ∧ s.loops.stopCapture = false ∧
      ∃ it, nextItem? s = some it ∧ t = takeItem it (popAudio s)) := by
  unfold captureStep at h
  cases hv : s.mbox.valid
  · simp only [hv, Bool.false_eq_true, if_false] at h
    cases hr : s.loops.runCapture
    · simp [hr] at h
      exact .inr (.inl ⟨rfl, h.symm⟩)
    · cases hs : s.loops.stopCapture
      · simp only [hr, hs, Bool.not_true, Bool.false_eq_true, if_false] at h
        split at h
        · cases h
          exact .inr (.inl ⟨rfl, rfl⟩)
        · rename_i it hi
          cases h
          exact .inr (.inr (.inr ⟨rfl, rfl, rfl, it, hi, rfl⟩))
      · simp [hr, hs] at h
        exact .inr (.inr (.inl ⟨rfl, rfl, rfl, h.symm⟩))
  · simp only [hv, if_true] at h
    unfold deliver at h
    split at h
    · cases h
    · rename_i p hp
      cases h
      exact .inl ⟨rfl, p, hp, rfl⟩

/-- PUSH_FRAME writes D_ registers and the mailbox, nothing else (40_beat_detector.md R140). -/
theorem pushFrame_frame (frame : List Sample) (tCap : Time) (s : State) :
    pushFrame frame tCap s =
      { s with det := (pushFrame frame tCap s).det, mbox := (pushFrame frame tCap s).mbox } := by
  unfold pushFrame storeResult
  split
  · split <;> rfl
  · rfl

/-- Taking an item writes D_ registers, the mailbox, the capture loop's flags and LOG, nothing else. -/
theorem takeItem_frame (it : AudioItem) (s : State) :
    takeItem it s = { s with
      det := (takeItem it s).det, mbox := (takeItem it s).mbox, loops := (takeItem it s).loops,
      log := (takeItem it s).log } := by
  cases it with
  | frame tCap frame =>
    simp only [takeItem]
    rw [pushFrame_frame]
  | fail =>
    simp only [takeItem, readFail]
    split <;> rfl

/-- The two outcomes of PUSH_FRAME on the beat clock (40_beat_detector.md R140, R148). -/
theorem processFrame_cases (c : Cfg) (m : List Magnitude) (frame : List Sample) (tCap : Time) (d : Detector) :
    (fires c d tCap (signal c m d).1 (pushHistory c d.hist (signal c m d).1) = false ∧
      (processFrame c m frame tCap d).2 = none ∧
      (processFrame c m frame tCap d).1.lastBeat = d.lastBeat ∧
      (processFrame c m frame tCap d).1.lbValid = d.lbValid) ∨
    (fires c d tCap (signal c m d).1 (pushHistory c d.hist (signal c m d).1) = true ∧
      (processFrame c m frame tCap d).2 = some (alignedTime tCap frame) ∧
      (processFrame c m frame tCap d).1.lastBeat = alignedTime tCap frame ∧
      (processFrame c m frame tCap d).1.lbValid = true) := by
  unfold processFrame
  dsimp only
  cases hf : fires c d tCap (signal c m d).1 (pushHistory c d.hist (signal c m d).1)
  · refine .inl ⟨rfl, rfl, ?_, ?_⟩ <;> (unfold signal; cases c.detMethod <;> rfl)
  · exact .inr ⟨rfl, rfl, rfl, rfl⟩

/-- What PUSH_FRAME writes whether or not a beat fires (40_beat_detector.md R140). -/
theorem processFrame_always (c : Cfg) (m : List Magnitude) (frame : List Sample) (tCap : Time) (d : Detector) :
    (processFrame c m frame tCap d).1.failCnt = 0 ∧
      (processFrame c m frame tCap d).1.vol = BitVec.ofNat 16 (peakLevel frame) ∧
      (processFrame c m frame tCap d).1.hist = pushHistory c d.hist (signal c m d).1 ∧
      (processFrame c m frame tCap d).1.prevSpec = (signal c m d).2.prevSpec ∧
      (processFrame c m frame tCap d).1.ePrev = (signal c m d).2.ePrev := by
  unfold processFrame
  dsimp only
  split <;> exact ⟨rfl, rfl, rfl, rfl, rfl⟩

/-- READ_FAIL, whole (40_beat_detector.md R159). -/
theorem readFail_cases (s : State) :
    (s.cfg.audioFailLimit ≤ (failCntNext s.det.failCnt).toNat ∧ readFail s = { s with
      det := { s.det with failCnt := failCntNext s.det.failCnt }
      loops := { s.loops with runCapture := false, stopCapture := false }
      log := s.log ++ [⟨.deviceError, .capture, (failCntNext s.det.failCnt).zeroExtend 16, s.time⟩] }) ∨
    ((failCntNext s.det.failCnt).toNat < s.cfg.audioFailLimit ∧ readFail s = { s with
      det := { s.det with failCnt := failCntNext s.det.failCnt }
      log := s.log ++ [⟨.transientIOError, .capture, (failCntNext s.det.failCnt).zeroExtend 16, s.time⟩] }) := by
  unfold readFail
  dsimp only
  by_cases h : s.cfg.audioFailLimit ≤ (failCntNext s.det.failCnt).toNat
  · exact .inl ⟨h, by rw [if_pos h]; rfl⟩
  · exact .inr ⟨by omega, by rw [if_neg h]; rfl⟩

theorem failCntNext_toNat (n : BitVec 8) : (failCntNext n).toNat = min 255 (n.toNat + 1) := by
  simp only [failCntNext, BitVec.toNat_ofNat]
  omega

/-! ## The peak of a frame (40_beat_detector.md R149, R151) -/

theorem foldl_max_le {xs : List Nat} {a b : Nat} (ha : a ≤ b) (h : ∀ x ∈ xs, x ≤ b) : xs.foldl max a ≤ b := by
  induction xs generalizing a with
  | nil => exact ha
  | cons x xs ih =>
    exact ih (max_le ha (h x List.mem_cons_self)) fun y hy => h y (List.mem_cons_of_mem _ hy)

theorem le_foldl_max {xs : List Nat} {a : Nat} : a ≤ xs.foldl max a ∧ ∀ x ∈ xs, x ≤ xs.foldl max a := by
  induction xs generalizing a with
  | nil => exact ⟨le_rfl, by simp⟩
  | cons x xs ih =>
    have h := ih (a := max a x)
    refine ⟨(le_max_left a x).trans h.1, ?_⟩
    intro y hy
    rcases List.mem_cons.1 hy with rfl | hy
    · exact (le_max_right a y).trans h.1
    · exact h.2 y hy

theorem foldl_max_mem {xs : List Nat} (a : Nat) : xs.foldl max a = a ∨ xs.foldl max a ∈ xs := by
  induction xs generalizing a with
  | nil => exact .inl rfl
  | cons x xs ih =>
    rcases ih (max a x) with h | h
    · rcases max_choice a x with hm | hm
      · exact .inl (by rw [List.foldl_cons, h, hm])
      · exact .inr (by rw [List.foldl_cons, h, hm]; exact List.mem_cons_self)
    · exact .inr (List.mem_cons_of_mem _ h)

/-- An absolute sample is 0 to 32768 (45_arithmetic_and_sequencing.md R312). -/
theorem sampleAbs_le (x : Sample) : sampleAbs x ≤ 32768 := by
  have h1 := BitVec.le_toInt x
  have h2 := BitVec.toInt_lt (x := x)
  simp only [sampleAbs]
  simp at h1 h2
  omega

theorem peakLevel_le (frame : List Sample) : peakLevel frame ≤ 32768 := by
  refine foldl_max_le (by simp) ?_
  simp only [List.mem_map]
  rintro _ ⟨x, -, rfl⟩
  exact sampleAbs_le x

/-- The peak is at least every absolute sample. -/
theorem sampleAbs_le_peak {frame : List Sample} {x : Sample} (h : x ∈ frame) : sampleAbs x ≤ peakLevel frame :=
  le_foldl_max.2 _ (List.mem_map_of_mem h)

/-- The peak of a frame with a sample is reached. -/
theorem peak_reached {frame : List Sample} (h : frame ≠ []) : ∃ x ∈ frame, sampleAbs x = peakLevel frame := by
  rcases foldl_max_mem (xs := frame.map sampleAbs) 0 with hz | hm
  · obtain ⟨x, hx⟩ := List.exists_mem_of_ne_nil _ h
    have := sampleAbs_le_peak hx
    have hp : peakLevel frame = 0 := hz
    exact ⟨x, hx, by omega⟩
  · obtain ⟨x, hx, he⟩ := List.mem_map.1 hm
    exact ⟨x, hx, he⟩

theorem peakIndex_lt {frame : List Sample} (h : frame ≠ []) : peakIndex frame < frame.length := by
  obtain ⟨x, hx, he⟩ := peak_reached h
  exact List.findIdx_lt_length_of_exists ⟨x, hx, by simpa using he⟩

/-! ## The transmit loop -/

/-- What the TX agent's step can be (43_transport.md R276). -/
theorem txStep_next {s t : State} (h : txStep s = .next t) :
    (txEnabled s = false ∧ t = s) ∨ (txEnabled s = true ∧
      ((atTop s.tx.phase = true ∧ t = txTop s) ∨ (s.tx.phase = .breakLow ∧ t = txBreak s) ∨
        (s.tx.phase = .mab ∧ t = txMab s) ∨ (s.tx.phase = .data ∧ txData s = .next t))) := by
  unfold txStep at h
  cases he : txEnabled s
  · simp [he] at h
    exact .inl ⟨rfl, h.symm⟩
  · simp only [he, Bool.not_true, Bool.false_eq_true, if_false] at h
    refine .inr ⟨rfl, ?_⟩
    split at h
    all_goals rename_i hp
    · cases h; exact .inl ⟨by rw [hp]; rfl, rfl⟩
    · cases h; exact .inl ⟨by rw [hp]; rfl, rfl⟩
    · cases h; exact .inl ⟨by rw [hp]; rfl, rfl⟩
    · cases h; exact .inr (.inl ⟨hp, rfl⟩)
    · cases h; exact .inr (.inr (.inl ⟨hp, rfl⟩))
    · exact .inr (.inr (.inr ⟨hp, h⟩))

theorem txData_next {s t : State} (h : txData s = .next t) :
    ∃ d, s.tx.snap[s.tx.slot.toNat]? = some d ∧
      ((s.tx.bit < bitsPerSlot ∧ t = txBit d s) ∨
        (bitsPerSlot ≤ s.tx.bit ∧ s.tx.slot.toNat < s.n ∧ t = txNextSlot s) ∨
        (bitsPerSlot ≤ s.tx.bit ∧ s.n ≤ s.tx.slot.toNat ∧ t = txEnd s)) := by
  unfold txData at h
  split at h
  · cases h
  · rename_i d hd
    refine ⟨d, hd, ?_⟩
    split at h
    · cases h; exact .inl ⟨by assumption, rfl⟩
    · split at h
      · cases h; exact .inr (.inl ⟨by omega, by assumption, rfl⟩)
      · cases h; exact .inr (.inr ⟨by omega, by omega, rfl⟩)

/-- Every step of the transmit loop changes its own registers, its two flags, LOG and the coming answers of SINK_OK, and
nothing else. -/
theorem txStep_frame {s t : State} (h : txStep s = .next t) :
    t = { s with tx := t.tx, loops := t.loops, log := t.log, env := t.env } ∧
      t.loops = { s.loops with runTx := t.loops.runTx, stopTx := t.loops.stopTx } ∧
      t.env = { s.env with sinkOks := t.env.sinkOks, sinkAsked := t.env.sinkAsked } := by
  rcases txStep_next h with ⟨-, rfl⟩ | ⟨-, ⟨-, rfl⟩ | ⟨-, rfl⟩ | ⟨-, rfl⟩ | ⟨-, hd⟩⟩
  · exact ⟨rfl, rfl, rfl⟩
  · unfold txTop
    split
    · exact ⟨rfl, rfl, rfl⟩
    · split <;> exact ⟨rfl, rfl, rfl⟩
  · exact ⟨rfl, rfl, rfl⟩
  · unfold txMab
    split <;> exact ⟨rfl, rfl, rfl⟩
  · obtain ⟨d, -, ⟨-, rfl⟩ | ⟨-, -, rfl⟩ | ⟨-, -, rfl⟩⟩ := txData_next hd
    · exact ⟨rfl, rfl, rfl⟩
    · exact ⟨rfl, rfl, rfl⟩
    · unfold txEnd txPace
      split <;> exact ⟨rfl, rfl, rfl⟩

/-! ## The step -/

/-- What the HOST agent's step can be (30_encoding.md R100, R120). -/
theorem hostStep_next {s t : State} (h : hostStep s = .next t) :
    t = s ∨ (∃ info, t = s.refuse .illegalCommand info) ∨
      ∃ i, s.commandReady = true ∧ decode s.port.cBuf = .ok i ∧ exec i s = .next t := by
  unfold hostStep at h
  cases hr : s.commandReady
  · simp [hr] at h
    exact .inl h.symm
  · simp only [hr, Bool.not_true, Bool.false_eq_true, if_false] at h
    split at h
    · rename_i e he
      rcases raiseUndecoded_cases e s with ⟨info, hc⟩ | hc
      · rw [hc] at h
        cases h
        exact .inr (.inl ⟨info, rfl⟩)
      · rw [hc] at h
        cases h
    · rename_i i hi
      exact .inr (.inr ⟨i, rfl, hi, h⟩)

end Sys2Proof.Machine
end

