-- ==== Sys2Proof/Laws/Exec.lean ====
section
/-! SUPPORT. What every command leaves alone, said once for all sixteen. -/

namespace Sys2Proof.Machine

/-- What no command does: TIME, CFG, the mailbox, the snapshot, the line and its records, the coming moves, audio items
and SINK_OK answers stay; of the detector only D_FAIL_CNT can change; LOG grows only by START's fall back. -/
structure ExecFrame (s t : State) : Prop where
  cfg : t.cfg = s.cfg
  time : t.time = s.time
  mbox : t.mbox = s.mbox
  det : t.det = s.det ∨ t.det = { s.det with failCnt := 0 }
  tx : t.tx = { s.tx with
    phase := t.tx.phase, nextStart := t.tx.nextStart, virtualSink := t.tx.virtualSink }
  env : t.env = { s.env with
    draws := t.env.draws, drawsMade := t.env.drawsMade, audioConnects := t.env.audioConnects,
    audioAsked := t.env.audioAsked, serialConnects := t.env.serialConnects, serialAsked := t.env.serialAsked }
  log : t.log = s.log ∨ (t.log = s.log ++ [⟨.deviceError, .tx, 1, s.time⟩] ∧ s.tx.virtualSink = false ∧
    t.tx.virtualSink = true)
  port : t.port = readyPort

theorem ExecFrame.of_respond {s : State} (ws : List Word) : ExecFrame s (s.respond ws) :=
  ⟨rfl, rfl, rfl, .inl rfl, rfl, rfl, .inl rfl, rfl⟩

theorem ExecFrame.of_refuse {s : State} (c : ResultCode) (info : BitVec 24) : ExecFrame s (s.refuse c info) :=
  ExecFrame.of_respond _

/-- A command that changes only the channels, the engine and the draws, and answers. -/
theorem ExecFrame.of_render {s u : State} (h : RenderFrame s u) (data : BitVec 24) :
    ExecFrame s (u.respondOk data) := by
  refine ⟨h.cfg, h.time, h.mbox, .inl h.det, ?_, ?_, .inl h.log, rfl⟩
  · rw [State.respondOk_tx, h.tx]
  · rw [State.respondOk_env, h.draws]

/-- START's device answers, and what it leaves of the environment. -/
theorem askDevices_env (mask : BitVec 3) (s : State) :
    (askDevices mask s).env = { s.env with
      audioConnects := (askDevices mask s).env.audioConnects, audioAsked := (askDevices mask s).env.audioAsked,
      serialConnects := (askDevices mask s).env.serialConnects,
      serialAsked := (askDevices mask s).env.serialAsked } := by
  unfold askDevices
  split <;> split <;> rfl

/-- The serial device can only fail where it was needed: the transport was not virtual (44_orchestrator.md R303). -/
theorem not_virtual_of_serial_failure {mask : BitVec 3} {s : State} (h : serialOk mask s = false) :
    namesTx mask = true ∧ s.loops.runTx = false ∧ s.tx.virtualSink = false := by
  simp only [serialOk, serialNeeded, Bool.or_eq_false_iff, Bool.not_eq_false', Bool.and_eq_true,
    Bool.not_eq_true'] at h
  exact ⟨h.1.1.1, h.1.1.2, h.1.2⟩

theorem execStart_frame (mask : BitVec 3) (s : State) : ExecFrame s (startResult mask s) := by
  have ha := (askDevices_frame mask s).1
  have he := askDevices_env mask s
  generalize hA : askDevices mask s = A at ha he
  rcases startResult_cases mask s with ⟨-, -, h⟩ | ⟨u, v, hu, hv, h⟩
  · rw [h, hA]
    refine ⟨?_, ?_, ?_, .inl ?_, ?_, ?_, .inl ?_, rfl⟩
    · rw [State.refuse_cfg, ha]
    · rw [State.refuse_time, ha]
    · rw [State.refuse_mbox, ha]
    · rw [State.refuse_det, ha]
    · rw [State.refuse_tx, ha]
    · rw [State.refuse_env, he]
    · rw [State.refuse_log, ha]
  · have hf := startLoops_frame mask (audioOk mask s) u
    rw [← hv] at hf
    have key : v.cfg = s.cfg ∧ v.time = s.time ∧ v.mbox = s.mbox ∧
        (v.det = s.det ∨ v.det = { s.det with failCnt := 0 }) ∧
        v.tx = { s.tx with phase := v.tx.phase, nextStart := v.tx.nextStart, virtualSink := v.tx.virtualSink } ∧
        v.env = A.env ∧
        (v.log = s.log ∨ (v.log = s.log ++ [⟨.deviceError, .tx, 1, s.time⟩] ∧ s.tx.virtualSink = false ∧
          v.tx.virtualSink = true)) := by
      rw [hA] at hu
      rcases hu with ⟨-, hu⟩ | ⟨hs, -, hu⟩
      · have hd : v.det = s.det ∨ v.det = { s.det with failCnt := 0 } := by
          rcases hf.det with k | k <;> rw [hu, ha] at k
          · exact .inl k
          · exact .inr k
        refine ⟨?_, ?_, ?_, hd, ?_, ?_, .inl ?_⟩
        · rw [hf.state, hu, ha]
        · rw [hf.state, hu, ha]
        · rw [hf.state, hu, ha]
        · rw [hf.tx, hu, ha]
        · rw [hf.state, hu]
        · rw [hf.state, hu, ha]
      · have hd : v.det = s.det ∨ v.det = { s.det with failCnt := 0 } := by
          rcases hf.det with k | k <;> rw [hu, degrade_det, ha] at k
          · exact .inl k
          · exact .inr k
        refine ⟨?_, ?_, ?_, hd, ?_, ?_, .inr ⟨?_, (not_virtual_of_serial_failure hs).2.2, ?_⟩⟩
        · rw [hf.state, hu, degrade_cfg, ha]
        · rw [hf.state, hu, degrade_time, ha]
        · rw [hf.state, hu, degrade_mbox, ha]
        · rw [hf.tx, hu, degrade_tx, ha]
        · rw [hf.state, hu, degrade_env]
        · rw [hf.state, hu, degrade_log, ha]
        · rw [hf.tx, hu, degrade_tx]
    obtain ⟨k1, k2, k3, k4, k5, k6, k7⟩ := key
    rcases h with ⟨-, h⟩ | ⟨-, h⟩ <;> rw [h]
    · exact ⟨k1, k2, k3, k4, k5, by rw [State.respondOk_env, k6, he], k7, rfl⟩
    · exact ⟨k1, k2, k3, k4, k5, by rw [State.refuse_env, k6, he], k7, rfl⟩

theorem onBeat_frame {ts : Time} {s : State} {p : Bool × State} (h : onBeat ts s = .ok p) :
    RenderFrame s p.2 ∧ p.2.ch = s.ch := by
  rcases onBeat_ok h with rfl | ⟨d, -, -, rfl⟩
  · exact ⟨RenderFrame.refl s, rfl⟩
  · exact tryBeat_frame d ts s

theorem trigger_frame {ts : Time} {s : State} {p : Bool × State} (h : trigger ts s = .ok p) :
    RenderFrame s p.2 ∧ p.2.ch = s.ch := by
  obtain ⟨d, -, rfl⟩ := trigger_ok h
  exact tryBeat_frame d ts s

theorem updateOp_frame {now : Time} {s : State} {p : Bool × State} (h : updateOp now s = .ok p) :
    RenderFrame s p.2 := by
  obtain ⟨d, -, rfl⟩ := updateOp_ok h
  exact updateWith_frame d now s

/-- Every command keeps its frame. -/
theorem exec_frame {i : Instr} {s t : State} (h : exec i s = .next t) : ExecFrame s t := by
  cases i with
  | setChannel idx val =>
    simp only [exec, execSetChannel, raise] at h
    (repeat' split at h) <;> cases h <;> exact ⟨rfl, rfl, rfl, .inl rfl, rfl, rfl, .inl rfl, rfl⟩
  | setChannels pairs =>
    simp only [exec, execSetChannels, raise] at h
    (repeat' split at h) <;> cases h <;> exact ⟨rfl, rfl, rfl, .inl rfl, rfl, rfl, .inl rfl, rfl⟩
  | getChannel idx =>
    simp only [exec, execGetChannel, raise] at h
    (repeat' split at h) <;> cases h <;> exact ⟨rfl, rfl, rfl, .inl rfl, rfl, rfl, .inl rfl, rfl⟩
  | blackout => cases h; exact ⟨rfl, rfl, rfl, .inl rfl, rfl, rfl, .inl rfl, rfl⟩
  | setAll val =>
    simp only [exec, execSetAll, raise] at h
    (repeat' split at h) <;> cases h <;> exact ⟨rfl, rfl, rfl, .inl rfl, rfl, rfl, .inl rfl, rfl⟩
  | setPreset id =>
    simp only [exec, execSetPreset, raise] at h
    (repeat' split at h) <;> cases h <;> exact ⟨rfl, rfl, rfl, .inl rfl, rfl, rfl, .inl rfl, rfl⟩
  | setAudioReactive en => cases h; exact ⟨rfl, rfl, rfl, .inl rfl, rfl, rfl, .inl rfl, rfl⟩
  | setAddress fix addr =>
    simp only [exec, execSetAddress, raise] at h
    (repeat' split at h) <;> cases h <;> exact ⟨rfl, rfl, rfl, .inl rfl, rfl, rfl, .inl rfl, rfl⟩
  | getStatus => cases h; exact ExecFrame.of_respond _
  | setBpm bpm =>
    simp only [exec, execSetBpm, raise] at h
    (repeat' split at h) <;> cases h <;> exact ⟨rfl, rfl, rfl, .inl rfl, rfl, rfl, .inl rfl, rfl⟩
  | beat ts =>
    obtain ⟨p, hp, rfl⟩ := answerProcessed_next h
    exact ExecFrame.of_render (onBeat_frame hp).1 _
  | trigger ts =>
    obtain ⟨p, hp, rfl⟩ := answerProcessed_next h
    exact ExecFrame.of_render (trigger_frame hp).1 _
  | update now =>
    obtain ⟨p, hp, rfl⟩ := answerProcessed_next h
    exact ExecFrame.of_render (updateOp_frame hp) _
  | getVolume => cases h; exact ExecFrame.of_respond _
  | start mask => cases h; exact execStart_frame mask s
  | stop mask => cases h; exact ⟨rfl, rfl, rfl, .inl rfl, rfl, rfl, .inl rfl, rfl⟩

/-! ## When the loops' next steps are due -/

/-- A command moves the transmit loop's phase and next start, and the next tick, only by starting a loop that did not
run, and never clears T_VIRTUAL (44_orchestrator.md R303, R304). -/
structure ExecTimers (s t : State) : Prop where
  transmit : (t.tx.phase = s.tx.phase ∧ t.tx.nextStart = s.tx.nextStart) ∨
    (s.loops.runTx = false ∧ t.loops.runTx = true ∧ t.tx.phase = .idle ∧ t.tx.nextStart = s.time)
  tick : t.loops.nextTick = s.loops.nextTick ∨
    (s.loops.runTick = false ∧ t.loops.runTick = true ∧ t.loops.nextTick = s.time)
  sticky : s.tx.virtualSink = true → t.tx.virtualSink = true

theorem ExecTimers.of_eq {s t : State} (ht : t.tx = s.tx) (hl : t.loops.nextTick = s.loops.nextTick) :
    ExecTimers s t :=
  ⟨.inl ⟨by rw [ht], by rw [ht]⟩, .inl hl, by rw [ht]; exact id⟩

theorem startCapture_timers (aOk : Bool) (s : State) :
    (startCapture aOk s).tx = s.tx ∧ (startCapture aOk s).time = s.time ∧
      (startCapture aOk s).loops.runTx = s.loops.runTx ∧ (startCapture aOk s).loops.runTick = s.loops.runTick ∧
      (startCapture aOk s).loops.nextTick = s.loops.nextTick := by
  unfold startCapture
  split
  · exact ⟨rfl, rfl, rfl, rfl, rfl⟩
  · split <;> exact ⟨rfl, rfl, rfl, rfl, rfl⟩

theorem startTick_timers (s : State) :
    (startTick s).tx = s.tx ∧ (startTick s).time = s.time ∧ (startTick s).loops.runTx = s.loops.runTx ∧
      ((startTick s).loops.nextTick = s.loops.nextTick ∨ (s.loops.runTick = false ∧
        (startTick s).loops.runTick = true ∧ (startTick s).loops.nextTick = s.time)) := by
  unfold startTick
  cases hr : s.loops.runTick
  · exact ⟨rfl, rfl, rfl, .inr ⟨rfl, rfl, rfl⟩⟩
  · exact ⟨rfl, rfl, rfl, .inl rfl⟩

theorem startTx_timers (s : State) :
    (startTx s).loops.runTick = s.loops.runTick ∧ (startTx s).loops.nextTick = s.loops.nextTick ∧
      (startTx s).tx.virtualSink = s.tx.virtualSink ∧
      (((startTx s).tx.phase = s.tx.phase ∧ (startTx s).tx.nextStart = s.tx.nextStart) ∨
        (s.loops.runTx = false ∧ (startTx s).loops.runTx = true ∧ (startTx s).tx.phase = .idle ∧
          (startTx s).tx.nextStart = s.time)) := by
  unfold startTx
  cases hr : s.loops.runTx
  · exact ⟨rfl, rfl, rfl, .inr ⟨rfl, rfl, rfl, rfl⟩⟩
  · exact ⟨rfl, rfl, rfl, .inl ⟨rfl, rfl⟩⟩

theorem startLoops_timers (mask : BitVec 3) (aOk : Bool) (s : State) : ExecTimers s (startLoops mask aOk s) := by
  have hu : ∃ u, u = (if namesCapture mask then startCapture aOk s else s) ∧ u.tx = s.tx ∧ u.time = s.time ∧
      u.loops.runTx = s.loops.runTx ∧ u.loops.runTick = s.loops.runTick ∧ u.loops.nextTick = s.loops.nextTick := by
    refine ⟨_, rfl, ?_⟩
    split
    · exact startCapture_timers aOk s
    · exact ⟨rfl, rfl, rfl, rfl, rfl⟩
  obtain ⟨u, eu, u1, u2, u3, u4, u5⟩ := hu
  have hv : ∃ v, v = (if namesTick mask then startTick u else u) ∧ v.tx = s.tx ∧ v.time = s.time ∧
      v.loops.runTx = s.loops.runTx ∧ (v.loops.nextTick = s.loops.nextTick ∨
        (s.loops.runTick = false ∧ v.loops.runTick = true ∧ v.loops.nextTick = s.time)) := by
    rw [← u1, ← u2, ← u3, ← u4, ← u5]
    refine ⟨_, rfl, ?_⟩
    split
    · exact startTick_timers u
    · exact ⟨rfl, rfl, rfl, .inl rfl⟩
  obtain ⟨v, ev, v1, v2, v3, v4⟩ := hv
  have e : startLoops mask aOk s = if namesTx mask then startTx v else v := by rw [ev, eu]; rfl
  rw [e]
  split
  · obtain ⟨x1, x2, x3, x4⟩ := startTx_timers v
    refine ⟨?_, ?_, ?_⟩
    · rw [← v1, ← v2, ← v3]; exact x4
    · rw [x1, x2]; exact v4
    · rw [x3, v1]; exact id
  · exact ⟨.inl ⟨by rw [v1], by rw [v1]⟩, v4, by rw [v1]; exact id⟩

theorem startResult_timers (mask : BitVec 3) (s : State) : ExecTimers s (startResult mask s) := by
  have ha := (askDevices_frame mask s).1
  rcases startResult_cases mask s with ⟨-, -, h⟩ | ⟨u, v, hu, hv, h⟩
  · rw [h]
    exact .of_eq (by rw [State.refuse_tx, ha]) (by rw [State.refuse_loops, ha])
  · have hl := startLoops_timers mask (audioOk mask s) u
    rw [← hv] at hl
    have key : u.loops = s.loops ∧ u.time = s.time ∧ u.tx.phase = s.tx.phase ∧ u.tx.nextStart = s.tx.nextStart ∧
        (s.tx.virtualSink = true → u.tx.virtualSink = true) := by
      rcases hu with ⟨-, hu⟩ | ⟨-, -, hu⟩ <;> rw [hu]
      · rw [ha]; exact ⟨rfl, rfl, rfl, rfl, id⟩
      · rw [degrade_loops, degrade_time, degrade_tx, ha]; exact ⟨rfl, rfl, rfl, rfl, fun _ => rfl⟩
    obtain ⟨k1, k2, k3, k4, k5⟩ := key
    have hv' : ExecTimers s v := by
      refine ⟨?_, ?_, hl.sticky ∘ k5⟩
      · rw [← k1, ← k2, ← k3, ← k4]; exact hl.transmit
      · rw [← k1, ← k2]; exact hl.tick
    rcases h with ⟨-, h⟩ | ⟨-, h⟩ <;> rw [h] <;> exact ⟨hv'.transmit, hv'.tick, hv'.sticky⟩

theorem exec_timers {i : Instr} {s t : State} (h : exec i s = .next t) : ExecTimers s t := by
  cases i with
  | setChannel idx val =>
    simp only [exec, execSetChannel, raise] at h
    (repeat' split at h) <;> cases h <;> exact .of_eq rfl rfl
  | setChannels pairs =>
    simp only [exec, execSetChannels, raise] at h
    (repeat' split at h) <;> cases h <;> exact .of_eq rfl rfl
  | getChannel idx =>
    simp only [exec, execGetChannel, raise] at h
    (repeat' split at h) <;> cases h <;> exact .of_eq rfl rfl
  | blackout => cases h; exact .of_eq rfl rfl
  | setAll val =>
    simp only [exec, execSetAll, raise] at h
    (repeat' split at h) <;> cases h <;> exact .of_eq rfl rfl
  | setPreset id =>
    simp only [exec, execSetPreset, raise] at h
    (repeat' split at h) <;> cases h <;> exact .of_eq rfl rfl
  | setAudioReactive en => cases h; exact .of_eq rfl rfl
  | setAddress fix addr =>
    simp only [exec, execSetAddress, raise] at h
    (repeat' split at h) <;> cases h <;> exact .of_eq rfl rfl
  | getStatus => cases h; exact .of_eq rfl rfl
  | setBpm bpm =>
    simp only [exec, execSetBpm, raise] at h
    (repeat' split at h) <;> cases h <;> exact .of_eq rfl rfl
  | beat ts =>
    obtain ⟨p, hp, rfl⟩ := answerProcessed_next h
    have hf := (onBeat_frame hp).1
    exact .of_eq hf.tx (congrArg Loops.nextTick hf.loops)
  | trigger ts =>
    obtain ⟨p, hp, rfl⟩ := answerProcessed_next h
    have hf := (trigger_frame hp).1
    exact .of_eq hf.tx (congrArg Loops.nextTick hf.loops)
  | update now =>
    obtain ⟨p, hp, rfl⟩ := answerProcessed_next h
    have hf := updateOp_frame hp
    exact .of_eq hf.tx (congrArg Loops.nextTick hf.loops)
  | getVolume => cases h; exact .of_eq rfl rfl
  | start mask => cases h; exact startResult_timers mask s
  | stop mask => cases h; exact .of_eq rfl rfl

/-! ## The channels -/

/-- What keeps the channel space in canonical form and inside 1..N. -/
def ChannelsOk (s : State) : Prop := Memory.wf s.ch = true ∧ Memory.within s.n s.ch = true

theorem pairCell_within {n : Nat} {p : Pair} {c : Host.Cell} (h : pairCell? n p = some c) : 1 ≤ c.1 ∧ c.1 ≤ n := by
  unfold pairCell? at h
  split at h
  · rename_i i v hi hv
    cases h
    unfold channelIndex? at hi
    split at hi
    · cases hi
      rename_i hr
      simpa using hr
    · cases hi
  · cases h

theorem paint_channelsOk {d : Descriptor} {now : Time} {s : State} (hr : rangesFit s.n s.eng.addr = true)
    (h : ChannelsOk s) : ChannelsOk (paint d now s) := by
  have hc : (paint d now s).ch =
      Memory.writeAll s.ch (lookCells s.eng.addr (look d s.eng now (glitchDraw d s).1)) := by
    rw [paint_eq]
  have hn := (paint_frame d now s).n
  unfold ChannelsOk
  rw [hn, hc]
  exact ⟨Memory.writeAll_wf _ h.1,
    Memory.writeAll_within (fun c hc => ownedCell_within hr (lookCells_owned hc)) h.2⟩

theorem synthesize_addr (d : Descriptor) (now : Time) (s : State) :
    (synthesize d now s).2.eng.addr = s.eng.addr := by
  rcases synthesize_cases d now s with h | ⟨-, -, -, h⟩ <;> rw [h]
  exact (beatProc_eng d now s).2.2.2.1

theorem updateWith_channelsOk {d : Descriptor} {now : Time} {s : State} (hr : rangesFit s.n s.eng.addr = true)
    (h : ChannelsOk s) : ChannelsOk (updateWith d now s).2 := by
  have hf := synthesize_frame d now s
  refine paint_channelsOk ?_ ?_
  · rw [noteTick_n, hf.1.n, noteTick_eng]
    simp only [synthesize_addr]
    exact hr
  · unfold ChannelsOk at h ⊢
    rw [noteTick_n, noteTick_ch, hf.1.n, hf.2]
    exact h

theorem exec_channelsOk {i : Instr} {s t : State} (hs : ChannelsOk s) (h : exec i s = .next t) : ChannelsOk t := by
  have hn : t.n = s.n := by rw [State.n_eq, State.n_eq, (exec_frame h).cfg]
  have same : t.ch = s.ch → ChannelsOk t := fun hc => by
    unfold ChannelsOk
    rw [hn, hc]
    exact hs
  cases i with
  | setChannel idx val =>
    simp only [exec, execSetChannel, raise] at h
    split at h
    · cases h; exact same rfl
    · rename_i i hi
      split at h
      · cases h; exact same rfl
      · rename_i v hv
        cases h
        have hw : 1 ≤ i ∧ i ≤ s.n := pairCell_within (p := ⟨idx, val⟩) (c := (i, v)) (by simp [pairCell?, hi, hv])
        exact ⟨Memory.writeAll_wf _ hs.1, Memory.writeAll_within (by simpa using hw) hs.2⟩
  | setChannels pairs =>
    simp only [exec, execSetChannels, raise] at h
    split at h
    · cases h; exact same rfl
    · cases h
      refine ⟨Memory.writeAll_wf _ hs.1, Memory.writeAll_within ?_ hs.2⟩
      intro c hc
      obtain ⟨p, -, hp⟩ := List.mem_filterMap.1 hc
      exact pairCell_within hp
  | getChannel idx =>
    simp only [exec, execGetChannel, raise] at h
    split at h <;> cases h <;> exact same rfl
  | blackout => cases h; exact ⟨Memory.fill_wf _ _ hs.1, Memory.fill_within _ _ hs.2⟩
  | setAll val =>
    simp only [exec, execSetAll, raise] at h
    split at h
    · cases h; exact same rfl
    · cases h; exact ⟨Memory.fill_wf _ _ hs.1, Memory.fill_within _ _ hs.2⟩
  | setPreset id =>
    simp only [exec, execSetPreset, raise] at h
    split at h <;> cases h <;> exact same rfl
  | setAudioReactive en => cases h; exact same rfl
  | setAddress fix addr =>
    simp only [exec, execSetAddress, raise] at h
    (repeat' split at h) <;> cases h <;> exact same rfl
  | getStatus => cases h; exact same rfl
  | setBpm bpm =>
    simp only [exec, execSetBpm, raise] at h
    split at h <;> cases h <;> exact same rfl
  | beat ts =>
    obtain ⟨p, hp, rfl⟩ := answerProcessed_next h
    exact same (onBeat_frame hp).2
  | trigger ts =>
    obtain ⟨p, hp, rfl⟩ := answerProcessed_next h
    exact same (trigger_frame hp).2
  | update now =>
    obtain ⟨p, hp, rfl⟩ := answerProcessed_next h
    obtain ⟨d, hd, rfl⟩ := updateOp_ok hp
    exact updateWith_channelsOk (updateReady_ok hd).2.2 hs
  | getVolume => cases h; exact same rfl
  | start mask =>
    cases h
    refine same ?_
    have ha : (askDevices mask s).ch = s.ch := by rw [(askDevices_frame mask s).1]
    rcases startResult_cases mask s with ⟨-, -, h⟩ | ⟨u, v, hu, hv, h⟩
    · rw [h, State.refuse_ch, ha]
    · have hc : v.ch = s.ch := by
        rw [hv, (startLoops_frame _ _ _).state]
        rcases hu with ⟨-, rfl⟩ | ⟨-, -, rfl⟩ <;> exact ha
      rcases h with ⟨-, h⟩ | ⟨-, h⟩ <;> rw [h] <;> exact hc
  | stop mask => cases h; exact same rfl

end Sys2Proof.Machine
end

