-- ==== Sys2Proof/Laws/PerInstr.lean ====
section
/-! SUPPORT. The family EncodeHeader: what the header of each command's encoding is, one lemma per command
(30_encoding.md R101, R110, R111). -/

namespace Sys2Proof.Laws

/-- The number an append of two bit fields stands for. -/
theorem append_toNat {m n : Nat} (x : BitVec m) (y : BitVec n) : (x ++ y).toNat = x.toNat * 2 ^ n + y.toNat := by
  rw [BitVec.toNat_append, ← Nat.shiftLeft_add_eq_or_of_lt y.isLt, Nat.shiftLeft_eq]

/-- The OP field of a word is its top eight bits. -/
theorem opField_eq {w : Word} {op : BitVec 8} (h : w.toNat / 2 ^ 24 = op.toNat) : field 31 24 w = op := by
  apply BitVec.eq_of_toNat_eq
  have := op.isLt
  simp only [field, BitVec.extractLsb, BitVec.extractLsb'_toNat, Nat.shiftRight_eq_div_pow, h]
  omega

/-- OP of a header of three fields. -/
theorem opField_three {m n : Nat} (op : BitVec 8) (x : BitVec m) (y : BitVec n) (hw : 8 + m + n = 32) :
    field 31 24 ((op ++ x ++ y).cast hw) = op := by
  apply opField_eq
  obtain rfl : m = 24 - n := by omega
  have h1 := append_toNat (op ++ x) y
  have h2 := append_toNat op x
  have hx := x.isLt
  have hy := y.isLt
  have hp : 2 ^ 24 = 2 ^ (24 - n) * 2 ^ n := by rw [← Nat.pow_add]; congr 1; omega
  rw [BitVec.toNat_cast, h1, h2, hp, Nat.div_eq_iff (by positivity)]
  constructor
  · rw [Nat.add_mul, ← Nat.mul_assoc]
    omega
  · have : x.toNat * 2 ^ n + y.toNat < 2 ^ (24 - n) * 2 ^ n :=
      calc x.toNat * 2 ^ n + y.toNat < x.toNat * 2 ^ n + 2 ^ n := by omega
        _ = (x.toNat + 1) * 2 ^ n := by ring
        _ ≤ 2 ^ (24 - n) * 2 ^ n := Nat.mul_le_mul_right _ hx
    have hq : (op.toNat * 2 ^ (24 - n) + x.toNat) * 2 ^ n = op.toNat * (2 ^ (24 - n) * 2 ^ n) + x.toNat * 2 ^ n := by
      ring
    omega

/-- The row of the opcode map each command stands in. -/
def opcodeOf : Instr → Opcode
  | .setChannel _ _ => .setChannel
  | .setChannels _ => .setChannels
  | .getChannel _ => .getChannel
  | .blackout => .blackout
  | .setAll _ => .setAll
  | .setPreset _ => .setPreset
  | .setAudioReactive _ => .setAudioReactive
  | .setAddress _ _ => .setAddress
  | .getStatus => .getStatus
  | .setBpm _ => .setBpm
  | .beat _ => .beat
  | .trigger _ => .trigger
  | .update _ => .update
  | .getVolume => .getVolume
  | .start _ => .start
  | .stop _ => .stop

/-- How many operand words each command has: its pairs, or two for a timestamp, or none. -/
def operandsOf : Instr → Nat
  | .setChannel _ _ => 0
  | .setChannels pairs => pairs.length
  | .getChannel _ => 0
  | .blackout => 0
  | .setAll _ => 0
  | .setPreset _ => 0
  | .setAudioReactive _ => 0
  | .setAddress _ _ => 0
  | .getStatus => 0
  | .setBpm _ => 0
  | .beat _ => 2
  | .trigger _ => 2
  | .update _ => 2
  | .getVolume => 0
  | .start _ => 0
  | .stop _ => 0

/-- The encoding is a header with the OP byte of the command's row, followed by its operand words. -/
def EncodeHeader.Statement (i : Instr) : Prop :=
  ∃ h ops, encode i = h :: ops ∧ field 31 24 h = opByte (opcodeOf i) ∧ ops.length = operandsOf i

theorem EncodeHeader.setChannel (idx val : BitVec 12) : EncodeHeader.Statement (.setChannel idx val) :=
  ⟨_, _, rfl, opField_three (opByte .setChannel) idx val rfl, rfl⟩

theorem EncodeHeader.setChannels (pairs : List Pair) : EncodeHeader.Statement (.setChannels pairs) :=
  ⟨_, _, rfl, opField_three (opByte .setChannels) (BitVec.ofNat 12 pairs.length) 0#12 rfl, List.length_map _⟩

theorem EncodeHeader.getChannel (idx : BitVec 12) : EncodeHeader.Statement (.getChannel idx) :=
  ⟨_, _, rfl, opField_three (opByte .getChannel) idx 0#12 rfl, rfl⟩

theorem EncodeHeader.blackout : EncodeHeader.Statement .blackout := ⟨_, _, rfl, rfl, rfl⟩

theorem EncodeHeader.setAll (val : BitVec 12) : EncodeHeader.Statement (.setAll val) :=
  ⟨_, _, rfl, opField_three (opByte .setAll) 0#12 val rfl, rfl⟩

theorem EncodeHeader.setPreset (id : BitVec 8) : EncodeHeader.Statement (.setPreset id) :=
  ⟨_, _, rfl, opField_three (opByte .setPreset) 0#16 id rfl, rfl⟩

theorem EncodeHeader.setAudioReactive (en : Bool) : EncodeHeader.Statement (.setAudioReactive en) :=
  ⟨_, _, rfl, opField_three (opByte .setAudioReactive) 0#23 (BitVec.ofBool en) rfl, rfl⟩

theorem EncodeHeader.setAddress (fix : BitVec 4) (addr : BitVec 12) :
    EncodeHeader.Statement (.setAddress fix addr) := by
  refine ⟨_, _, rfl, ?_, rfl⟩
  apply opField_eq
  have h1 := append_toNat (opByte .setAddress ++ fix ++ 0#8) addr
  have h2 := append_toNat (opByte .setAddress ++ fix) 0#8
  have h3 := append_toNat (opByte .setAddress) fix
  have hf := fix.isLt
  have ha := addr.isLt
  refine (congrArg (· / 2 ^ 24) h1).trans ?_
  rw [h2, h3]
  simp only [opByte, opcodeOf, BitVec.toNat_ofNat]
  omega

theorem EncodeHeader.getStatus : EncodeHeader.Statement .getStatus := ⟨_, _, rfl, rfl, rfl⟩

theorem EncodeHeader.setBpm (bpm : BitVec 16) : EncodeHeader.Statement (.setBpm bpm) :=
  ⟨_, _, rfl, opField_three (opByte .setBpm) 0#8 bpm rfl, rfl⟩

theorem EncodeHeader.beat (ts : Time) : EncodeHeader.Statement (.beat ts) := ⟨_, _, rfl, rfl, rfl⟩

theorem EncodeHeader.trigger (ts : Time) : EncodeHeader.Statement (.trigger ts) := ⟨_, _, rfl, rfl, rfl⟩

theorem EncodeHeader.update (now : Time) : EncodeHeader.Statement (.update now) := ⟨_, _, rfl, rfl, rfl⟩

theorem EncodeHeader.getVolume : EncodeHeader.Statement .getVolume := ⟨_, _, rfl, rfl, rfl⟩

theorem EncodeHeader.start (mask : BitVec 3) : EncodeHeader.Statement (.start mask) :=
  ⟨_, _, rfl, opField_three (opByte .start) 0#21 mask rfl, rfl⟩

theorem EncodeHeader.stop (mask : BitVec 3) : EncodeHeader.Statement (.stop mask) :=
  ⟨_, _, rfl, opField_three (opByte .stop) 0#21 mask rfl, rfl⟩

end Sys2Proof.Laws
end

