-- ==== Sys2Proof/Laws/Step.lean ====
section
/-! SUPPORT. What one step of the machine can be, agent by agent, and what each kind of step leaves alone. -/

namespace Sys2Proof.Machine

/-- A step that goes on is one of the eleven moves (20_memory.md R80, log 1). -/
theorem step_cases {s t : State} (h : step s = .next t) :
    (s.nextMove = .reset ∧ t = resetInput s.takeMove) ∨
    (∃ d, s.nextMove = .time d ∧ advanceTime d s.takeMove = .next t) ∨
    (∃ w, s.nextMove = .word w ∧ t = s.takeMove.receiveWord w) ∨
    (s.nextMove = .host ∧ hostStep s.takeMove = .next t) ∨
    (∃ x, s.nextMove = .sample x ∧ t = assemble x s.takeMove) ∨
    (∃ it, s.nextMove = .audioItem it ∧ t = offerItem it s.takeMove) ∨
    (∃ k, s.nextMove = .audioLost k ∧ t = loseItem k s.takeMove) ∨
    (s.nextMove = .capture ∧ captureStep s.takeMove = .next t) ∨
    (s.nextMove = .ticker ∧ tickStep s.takeMove = .next t) ∨
    (s.nextMove = .tx ∧ txStep s.takeMove = .next t) ∨
    (∃ b, s.nextMove = .lineNoise b ∧ t = lineNoise b s.takeMove) := by
  unfold step at h
  cases hm : s.nextMove <;> rw [hm] at h <;> simp only [perform] at h <;> simp <;> (try (cases h; rfl)) <;> exact h

/-- An arriving word changes the port only (30_encoding.md R100). -/
theorem receiveWord_frame (w : Word) (s : State) : s.receiveWord w = { s with port := (s.receiveWord w).port } := by
  rcases receiveWord_cases s w with ⟨-, k⟩ | ⟨-, -, k⟩ | ⟨-, -, k⟩ <;> rw [k]

/-- An arriving sample changes the frame assembler and the items the audio source holds only (10_state.md R49). -/
theorem assemble_frame (x : Sample) (s : State) :
    assemble x s = { s with
      fa := (assemble x s).fa, env := { s.env with audio := (assemble x s).env.audio } } := by
  unfold assemble
  dsimp only
  split <;> rfl

/-- The line of a failing cycle changes LINE only (93_implementation_defined.md U6). -/
theorem lineNoise_frame (b : Bool) (s : State) :
    lineNoise b s = { s with tx := { s.tx with line := (lineNoise b s).tx.line } } := by
  unfold lineNoise
  split <;> rfl

/-- The line can change by noise only in a cycle whose write will fail. -/
theorem lineNoise_cases (b : Bool) (s : State) :
    lineNoise b s = s ∨ (s.sinkOk = false ∧ (s.tx.phase = .breakLow ∨ s.tx.phase = .mab) ∧
      lineNoise b s = { s with tx := { s.tx with line := b } }) := by
  unfold lineNoise
  cases hc : cycleFailing s
  · exact .inl rfl
  · simp only [cycleFailing, Bool.and_eq_true, Bool.or_eq_true, beq_iff_eq, Bool.not_eq_true'] at hc
    exact .inr ⟨hc.2, hc.1, rfl⟩

/-- The capture agent's step writes neither the channels, nor the transmit loop's registers, nor the port and RESP
(40_beat_detector.md R157). -/
theorem captureStep_frame {s t : State} (h : captureStep s = .next t) :
    t.cfg = s.cfg ∧ t.time = s.time ∧ t.ch = s.ch ∧ t.tx = s.tx ∧ t.port = s.port ∧ t.resp = s.resp := by
  rcases captureStep_next h with ⟨-, p, hp, rfl⟩ | ⟨-, rfl⟩ | ⟨-, -, -, rfl⟩ | ⟨-, -, -, it, -, rfl⟩
  · have hf := onBeat_frame hp
    exact ⟨hf.1.cfg, hf.1.time, hf.2, hf.1.tx, hf.1.port, hf.1.resp⟩
  · exact ⟨rfl, rfl, rfl, rfl, rfl, rfl⟩
  · exact ⟨rfl, rfl, rfl, rfl, rfl, rfl⟩
  · rw [takeItem_frame]
    exact ⟨rfl, rfl, rfl, rfl, rfl, rfl⟩

/-- The capture agent's step writes no other loop's flags (40_beat_detector.md R157). -/
theorem captureStep_loops {s t : State} (h : captureStep s = .next t) :
    t.loops = { s.loops with runCapture := t.loops.runCapture, stopCapture := t.loops.stopCapture } := by
  rcases captureStep_next h with ⟨-, p, hp, rfl⟩ | ⟨-, rfl⟩ | ⟨-, -, -, rfl⟩ | ⟨-, -, -, it, -, rfl⟩
  · show p.2.loops = _
    rw [(onBeat_frame hp).1.loops]
  · rfl
  · rfl
  · cases it with
    | frame ts f =>
      have e : (takeItem (.frame ts f) (popAudio s)).loops = s.loops := by
        show (pushFrame f ts (popAudio s)).loops = _
        rw [pushFrame_frame]
        rfl
      rw [e]
    | fail =>
      show (readFail (popAudio s)).loops = { s.loops with
        runCapture := (readFail (popAudio s)).loops.runCapture
        stopCapture := (readFail (popAudio s)).loops.stopCapture }
      rcases readFail_cases (popAudio s) with ⟨-, e⟩ | ⟨-, e⟩ <;> rw [e] <;> rfl

/-- A tick writes the engine, the channels, the coming draws and the ticker's own flags and time only
(44_orchestrator.md R305). -/
theorem tickStep_frame {s t : State} (h : tickStep s = .next t) :
    t = { s with
      eng := t.eng, env := t.env, ch := t.ch
      loops := { s.loops with
        runTick := t.loops.runTick, stopTick := t.loops.stopTick, nextTick := t.loops.nextTick } } := by
  rcases tickStep_next h with ⟨-, rfl⟩ | ⟨-, -, rfl⟩ | ⟨-, -, d, -, rfl⟩
  · rfl
  · rfl
  · have hf := (updateWith_frame d s.time s).state
    generalize (updateWith d s.time s).2 = u at hf
    unfold advanceTick
    generalize later u.loops.nextTick tickUs = x
    rw [hf]

/-- The transmit loop's steps leave T_VIRTUAL (10_state.md R41). -/
theorem txStep_virtualSink {s t : State} (h : txStep s = .next t) : t.tx.virtualSink = s.tx.virtualSink := by
  rcases txStep_next h with ⟨-, rfl⟩ | ⟨-, ⟨-, rfl⟩ | ⟨-, rfl⟩ | ⟨-, rfl⟩ | ⟨-, hd⟩⟩
  · rfl
  · unfold txTop
    split
    · rfl
    · split <;> rfl
  · rfl
  · unfold txMab
    split <;> rfl
  · obtain ⟨d, -, ⟨-, rfl⟩ | ⟨-, -, rfl⟩ | ⟨-, -, rfl⟩⟩ := txData_next hd
    · rfl
    · rfl
    · unfold txEnd txPace
      split <;> rfl

/-- Outside the phases in which TOP is next, the transmit loop has a step only while it runs and exactly when that step
is due (43_transport.md R276, 44_orchestrator.md R308). -/
theorem txStep_not_due {s : State} (hp : atTop s.tx.phase = false)
    (h : s.loops.runTx = false ∨ s.time.toNat ≠ txDue s) : txStep s = .next s := by
  have he : txEnabled s = false := by
    simp only [txEnabled, hp]
    rcases h with h | h <;> simp [h]
  simp [txStep, he]

end Sys2Proof.Machine
end

