-- ==== Sys2Proof/Tests/Slice0.lean ====
section
/-! SUPPORT. Tests of the model against the spec's own words and numbers, and a witness for the hypotheses of every
statement. Each expected value is the spec's (the file and rule in the comment), never the model's own answer. -/

namespace Sys2Proof.Tests

-- One theorem after the other: the small evaluations below need no threads of their own.
set_option Elab.async false

open Sys2Proof Sys2Proof.Machine

/-! ## Helpers -/

/-- The state after the HOST step on a complete command; the state itself where it does not go on. -/
def send (ws : List Word) (s : State) : State :=
  match hostStep { s with port := { cBuf := ws, cNeed := 0 } } with
  | .next t => t
  | .fault _ => s
  | .refused _ => s

/-- The words a command is answered with. -/
def answer (ws : List Word) (s : State) : List Word := (send ws s).resp.drop s.resp.length

/-- The state after a move; the state itself where it does not go on. -/
def make (m : Move) (s : State) : State :=
  match perform m s with
  | .next t => t
  | .fault _ => s
  | .refused _ => s

/-- CH[a], ..., CH[a + k - 1]. -/
def cells (s : State) (a k : Nat) : List Byte := (List.range k).map fun i => s.channel (a + i)

/-- The state after reset with other engine registers. -/
def withEng (f : Engine → Engine) : State := { State.reset with eng := f State.reset.eng }

/-- The state after reset with a preset selected and audio-reactive mode off. -/
def lit (id : BitVec 8) (base : PerFixture Color) (f : Engine → Engine) : State :=
  withEng fun e => f { e with preset := id, base := base, audioReactive := false }

/-- A configuration with a universe of `n` channels. -/
def withN (n : Nat) : Cfg := { Cfg.default with universeSize := n }

/-- The state after reset in that universe. -/
def sized (n : Nat) : State := resetWith (withN n) Environment.initial

/-- A state with its next moves given. -/
def next (ms : List Move) (s : State) : State := { s with env := { s.env with moves := ms } }

/-! ## WellFormed: the one check refuses an ill-formed term -/

theorem test_wellFormed_refuses_4096_pairs : (Instr.setChannels (List.replicate 4096 ⟨1, 1⟩)).wellFormed = false := by
  simp only [Instr.wellFormed, List.length_replicate]
  decide

theorem test_wellFormed_accepts_4095_pairs : (Instr.setChannels (List.replicate 4095 ⟨1, 1⟩)).wellFormed = true := by
  simp only [Instr.wellFormed, List.length_replicate]
  decide

/-! ## Decoding: each word written out from its format (30_encoding.md R102 to R111, R126) -/

/-- 0001 0000 | 0000 0000 0101 | 0000 1100 1000: OP, IDX, VAL (R103). -/
theorem test_decode_setChannel : decode [0b00010000000000000101000011001000] = .ok (.setChannel 5 200) := by decide

/-- COUNT 2, then two pair words (R106). -/
theorem test_decode_setChannels :
    decode [0b00010001000000000010000000000000, 0x000010FF, 0x00002080] =
      .ok (.setChannels [⟨1, 255⟩, ⟨2, 128⟩]) := by decide

theorem test_decode_getChannel : decode [0b00010010000000000101000000000000] = .ok (.getChannel 5) := by decide
theorem test_decode_blackout : decode [0b00010011000000000000000000000000] = .ok .blackout := by decide
theorem test_decode_setAll : decode [0b00010100000000000000000000000111] = .ok (.setAll 7) := by decide
theorem test_decode_setPreset : decode [0b00100000000000000000000000000001] = .ok (.setPreset 1) := by decide
theorem test_decode_setAudioReactive :
    decode [0b00100001000000000000000000000001] = .ok (.setAudioReactive true) := by decide

/-- OP, FIX 2, eight zeros, ADDR 30 (R108). -/
theorem test_decode_setAddress : decode [0b00100010001000000000000000011110] = .ok (.setAddress 2 30) := by decide

theorem test_decode_getStatus : decode [0b00100011000000000000000000000000] = .ok .getStatus := by decide
theorem test_decode_setBpm : decode [0b00100100000000000000000001111100] = .ok (.setBpm 124) := by decide

/-- The low word of the timestamp comes first (R109; 95_test_vectors.md 3.1). -/
theorem test_decode_beat : decode [0x25000000, 0x2A05F200, 0x00000001] = .ok (.beat 5000000000) := by decide

theorem test_decode_trigger : decode [0x26000000, 0x00000001, 0x00000000] = .ok (.trigger 1) := by decide
theorem test_decode_update : decode [0x27000000, 0x0007A120, 0x00000000] = .ok (.update 500000) := by decide
theorem test_decode_getVolume : decode [0b00110000000000000000000000000000] = .ok .getVolume := by decide

/-- MASK: bit 0 capture, bit 1 ticker, bit 2 transmit (R108). -/
theorem test_decode_start : decode [0b01000000000000000000000000000111] = .ok (.start 7) := by decide

theorem test_decode_stop : decode [0b01000001000000000000000000000100] = .ok (.stop 4) := by decide

/-- Signed and out-of-domain field values decode (95_test_vectors.md 3.1). -/
theorem test_decode_extremes :
    decode [0x10FFF7FF] = .ok (.setChannel 4095 2047) ∧ decode [0x10001800] = .ok (.setChannel 1 (-2048)) ∧
      decode [0x2230001E] = .ok (.setAddress 3 30) ∧ decode [0x11000000] = .ok (.setChannels []) := by decide

/-- Whether a header is refused for a zero field, with its low 24 bits, and asks for no operand word. -/
def refusesField (h : Word) : Bool :=
  decodeHeader h = .error (.nonzeroZeroField (h.extractLsb' 0 24)) && operandWords h == 0

/-- Whether a header is refused for its OP, with its low 24 bits, and asks for no operand word. -/
def refusesOp (h : Word) : Bool :=
  decodeHeader h = .error (.unassignedOpcode (h.extractLsb' 0 24)) && operandWords h == 0

/-- Non-zero zero fields (95_test_vectors.md 3.1). -/
theorem test_decode_refuses_zero_fields :
    List.all [0x11001001, 0x12005001, 0x13000001, 0x14001007, 0x20000100, 0x21000002, 0x2220101E, 0x23000100, 0x24010078,
      0x25000001, 0x26800000, 0x27000002, 0x30000001, 0x40000008, 0x41000010] refusesField = true := by decide

/-- Unassigned OP values (95_test_vectors.md 3.1). -/
theorem test_decode_refuses_unassigned :
    List.all [0x00000000, 0xFFFFFFFF, 0x15000000, 0x28000000, 0x31000000, 0x42000000, 0x99000000] refusesOp = true := by
  decide

/-- The table numbers bit 0 as bit 0 of the first word; the operand words above nbits are zeros. -/
theorem test_decodeTableWord :
    decodeTableWord 32 0x100050C8 = some (.setChannel 5 200) ∧ decodeTableWord 32 0x26000000 = some (.trigger 0) ∧
      decodeTableWord 32 0x11001000 = some (.setChannels [⟨0, 0⟩]) ∧ decodeTableWord 32 0x13000001 = none := by decide

/-- `step` fetches the placed command and runs it first. -/
theorem test_withFetchWord : ∃ t, step (State.reset.withFetchWord 32 0x2400007C) = .next t ∧ t.eng.bpm = 124 :=
  ⟨_, rfl, by decide⟩

/-- The assembler's line syntax (30_encoding.md R125). -/
theorem test_assemble :
    assembleLine Cfg.default "set_channels 1=255, 2=128 ; two" = some (.setChannels [⟨1, 255⟩, ⟨2, 128⟩]) ∧
      assembleLine Cfg.default "set_address bar, 30" = some (.setAddress 2 30) ∧
      assembleLine Cfg.default "start capture|tx" = some (.start 5) ∧
      assembleLine Cfg.default "set_preset strobe_white" = some (.setPreset 4) ∧
      assembleLine Cfg.default "set_channel 1, 4096" = none := by decide

/-! ## The transport's commands (95_test_vectors.md 2.3, 2.5, 3.5) -/

theorem test_setChannel_bounds :
    answer [0x10001000] State.reset = [0] ∧ (send [0x102000FF] State.reset).channel 512 = 255 ∧
      answer [0x1000000A] State.reset = [0x0100000A] ∧ answer [0x1020100A] State.reset = [0x0120100A] := by
  decide +kernel

theorem test_setChannel_values :
    answer [0x10001FFF] State.reset = [0x01001FFF] ∧ answer [0x10001100] State.reset = [0x01001100] ∧
      answer [0x1004100A] (sized 64) = [0x0104100A] ∧ (send [0x1004000A] (sized 64)).channel 64 = 10 := by
  decide +kernel

theorem test_setChannels_last_wins :
    answer [0x11002000, 0x00003001, 0x00003002] State.reset = [0] ∧
      (send [0x11002000, 0x00003001, 0x00003002] State.reset).channel 3 = 2 := by decide +kernel

theorem test_setChannels_all_or_nothing :
    answer [0x11003000, 0x00001005, 0x0000212C, 0x00000001] State.reset = [0x0100212C] ∧
      (send [0x11003000, 0x00001005, 0x0000212C, 0x00000001] State.reset).channel 1 = 0 ∧
      answer [0x11002000, 0x00258001, 0x010010FF] State.reset = [0x060010FF] := by decide +kernel

theorem test_getChannel :
    answer [0x12005000] (send [0x100050C8] State.reset) = [0x000000C8] ∧
      answer [0x12000000] State.reset = [0x01000000] ∧ answer [0x12041000] (sized 64) = [0x01041000] := by
  decide +kernel

theorem test_blackout :
    (send [0x13000000] (send [0x100050C8] State.reset)).ch = [] ∧ answer [0x13000000] State.reset = [0] := by
  decide +kernel

theorem test_setAll :
    cells (send [0x14000007] (sized 20)) 0 22 = 0 :: (List.replicate 20 7 ++ [0]) ∧
      answer [0x1400012C] State.reset = [0x0100012C] ∧ answer [0x14000FFF] State.reset = [0x01000FFF] := by
  decide +kernel

/-! ## The engine's commands (95_test_vectors.md 3.3, 2.1) -/

theorem test_setPreset :
    (send [0x20000001] (lit 0 (uniform black) fun e => { e with envelope := 7, beatCount := 3, toggle := true })).eng =
      { (lit 1 (uniform white) id).eng with envelope := 65536, beatCount := 0, toggle := false } ∧
      answer [0x2000000D] State.reset = [0x0200000D] ∧ answer [0x2000000C] State.reset = [0] := by decide +kernel

theorem test_setAudioReactive :
    (send [0x21000000] State.reset).eng.audioReactive = false ∧
      (send [0x21000001] (lit 0 (uniform black) id)).eng.audioReactive = true := by decide +kernel

theorem test_setAddress :
    (send [0x222001F3] State.reset).eng.addr = ⟨1, 4, 499⟩ ∧ answer [0x222001F4] State.reset = [0x012001F4] ∧
      answer [0x22100000] State.reset = [0x01100000] ∧ answer [0x22300001] State.reset = [0x01300001] := by
  decide +kernel

theorem test_setBpm :
    answer [0x24000000] State.reset = [0x01000000] ∧ (send [0x2400FFFF] State.reset).eng.bpm = 65535 := by
  decide +kernel

theorem test_getStatus_no_beat :
    answer [0x23000000] State.reset = [0x00000078, 0xFFFFFFFF, 0xFFFFFFFF] := by decide +kernel

theorem test_getStatus_future_beat :
    answer [0x23000000] { withEng (fun e => { e with lastBeat := 5000000000, lbValid := true }) with time := 4000000 } =
      [0x00000078, 0, 0] := by decide +kernel

/-- Debounced at 200000, processed at 200001 (R190; 95_test_vectors.md 3.4, ALTERNATING). -/
theorem test_beat_debounce :
    answer [0x25000000, 200000, 0] (withEng fun e => { e with preset := 1, lbValid := true }) = [0] ∧
      answer [0x25000000, 200001, 0] (withEng fun e => { e with preset := 1, lbValid := true }) = [1] := by
  decide +kernel

/-- Audio-reactive mode off and the blackout preset (R190). -/
theorem test_beat_gates :
    answer [0x25000000, 0, 0] (lit 1 (uniform white) id) = [0] ∧ answer [0x25000000, 0, 0] State.reset = [0] := by
  decide +kernel

/-- Rotate acts on every second beat (95_test_vectors.md 3.3). -/
theorem test_trigger_rotate :
    (send [0x26000000, 300000, 0] (lit 12 ⟨red, green, blue⟩ fun e => { e with envelope := 55705 })).eng.rot = 0 ∧
      (send [0x26000000, 600000, 0] (lit 12 ⟨red, green, blue⟩ fun e =>
        { e with beatCount := 1, lastBeat := 300000, lbValid := true, envelope := 47349 })).eng =
      (lit 12 ⟨green, blue, red⟩ fun e =>
        { e with beatCount := 2, toggle := true, rot := 1, lastBeat := 600000, lbValid := true }).eng := by
  decide +kernel

/-- Randomize with the draws 0, 2, 7 (95_test_vectors.md 3.3). -/
theorem test_trigger_randomize :
    (send [0x26000000, 0, 0]
      { lit 11 (uniform white) id with env := { Environment.initial with draws := [0, 2, 7] } }).eng.base =
      ⟨red, blue, orange⟩ := by decide +kernel

/-! ## UPDATE (95_test_vectors.md 2.1, 2.2, 2.4, 3.4) -/

/-- 216 = scale(255, 55705), the bar's unused channels 0, the next envelope 47349, the tick noted; the fallback
synthesizes at 520000, not at 500000, for 120 beats a minute. -/
theorem test_update_duties :
    cells (send [0x27000000, 500000, 0] (lit 1 (uniform white) fun e => { e with envelope := 55705 })) 1 21 =
      List.replicate 15 216 ++ List.replicate 6 0 ∧
      (send [0x27000000, 500000, 0] (lit 1 (uniform white) fun e => { e with envelope := 55705 })).eng =
        (lit 1 (uniform white) fun e => { e with envelope := 47349, lastTick := 500000 }).eng ∧
      answer [0x27000000, 500000, 0] (withEng fun e => { e with preset := 1, lbValid := true }) = [0] ∧
      answer [0x27000000, 520000, 0] (withEng fun e => { e with preset := 1, lbValid := true }) = [1] := by decide +kernel

/-- The look of each preset at a time of its own, on PANEL_A, PANEL_B and the bar's first cell. -/
def shown (id : BitVec 8) (base : PerFixture Color) (f : Engine → Engine) (draws : List Nat) (now : Word) :
    List Byte :=
  cells (send [0x27000000, now, 0]
    { lit id base f with env := { Environment.initial with draws := draws } }) 1 9

/-- Each kind at the times, toggles, counts and draws of the spec's examples. -/
theorem test_update_looks :
    cells (send [0x27000000, 0, 0] { State.reset with ch := [(1, 9), (20, 9), (21, 9)] }) 1 21 =
      List.replicate 20 0 ++ [9] ∧
    shown 2 (uniform blue) id [] 2000000 = [0, 0, 203, 0, 0, 203, 0, 0, 203] ∧
    shown 2 (uniform blue) id [] 6000000 = [0, 0, 12, 0, 0, 12, 0, 0, 12] ∧
    shown 3 (uniform black) id [] 0 = [255, 0, 0, 255, 152, 0, 205, 255, 0] ∧
    shown 3 (uniform black) id [] 9999999 = [255, 0, 1, 255, 152, 0, 205, 255, 0] ∧
    shown 4 (uniform white) id [] 33333 = List.replicate 9 255 ∧
    shown 4 (uniform white) id [] 33334 = List.replicate 9 0 ∧
    shown 5 (uniform white) id [3276] 0 = List.replicate 9 255 ∧
    shown 5 (uniform white) id [3277] 0 = List.replicate 9 12 ∧
    shown 6 ⟨red, blue, black⟩ id [] 0 = [255, 0, 0, 0, 0, 0, 0, 0, 0] ∧
    shown 6 ⟨red, blue, black⟩ (fun e => { e with toggle := true }) [] 0 = [0, 0, 0, 0, 0, 255, 0, 0, 0] ∧
    shown 7 (uniform black) (fun e => { e with beatCount := 2, envelope := 55705 }) [] 0 =
      [0, 216, 0, 216, 0, 216, 0, 216, 0] ∧
    shown 7 (uniform black) (fun e => { e with beatCount := 8 }) [] 0 = [255, 0, 0, 0, 0, 255, 255, 0, 0] ∧
    shown 8 (uniform black) (fun e => { e with toggle := true }) [] 0 = [0, 0, 255, 255, 0, 0, 0, 0, 255] ∧
    shown 9 (uniform black) (fun e => { e with toggle := true }) [] 700000 = [0, 0, 255, 255, 0, 0, 0, 0, 255] ∧
    shown 9 (uniform black) id [] 249999 = [255, 0, 0, 0, 0, 255, 255, 0, 0] ∧
    shown 9 (uniform black) id [] 250000 = List.replicate 9 0 ∧
    shown 10 ⟨red, blue, black⟩ id [] 0 = [127, 0, 127, 127, 0, 127, 127, 0, 127] ∧
    shown 10 ⟨red, blue, black⟩ id [] 2000000 = [0, 0, 255, 0, 0, 255, 0, 0, 255] := by decide +kernel

/-- HUE2RGB at the borders of its sectors (95_test_vectors.md 3.4). -/
theorem test_hue2rgb :
    hue2rgb 10922 = ⟨255, 254, 0⟩ ∧ hue2rgb 10923 = ⟨255, 255, 0⟩ ∧ hue2rgb 16384 = ⟨128, 255, 0⟩ ∧
      hue2rgb 21845 = ⟨1, 255, 0⟩ ∧ hue2rgb 39321 = ⟨0, 103, 255⟩ ∧ hue2rgb 45875 = ⟨50, 0, 255⟩ ∧
      hue2rgb 65535 = ⟨255, 0, 1⟩ := by decide +kernel

/-- `scale`, `PH`, the beat intervals (95_test_vectors.md 3.9). -/
theorem test_arithmetic :
    scale 255 65535 = 254 ∧ scale 255 258 = 1 ∧ scale 255 257 = 0 ∧ scale 128 32768 = 64 ∧
      phase 9999999 10000000 = 65535 ∧ phase 500000 7741920 = 4232 ∧ beatIntervalUs 124 = 483870 ∧
      beatIntervalUs 65535 = 915 ∧ satSub 5 7 = 0 ∧ sampleAbs (-32768) = 32768 := by decide +kernel

/-! ## The detector (95_test_vectors.md 3.2) -/

/-- D_HIST before frame 20 of sequence A. -/
def historyA : List (BitVec 48) := [10, 4, 0, 4, 0, 4, 0, 4, 0, 4, 0, 4, 0, 4, 0, 4, 0, 4, 0]

/-- D_ before frame 20 of sequence A. -/
def detectorA : Detector := { State.reset.det with prevSpec := [10, 0, 0, 0], hist := historyA }

/-- Frame 20: 90 against a threshold of 7, the peak at sample 441. -/
theorem test_detector_beat :
    (processFrame Cfg.default [0, 100, 0, 0, 0] (List.replicate 441 0 ++ [1000]) 441180 detectorA).2 = some 451180 ∧
      threshold Cfg.default (historyA ++ [90]) = 7 := by decide +kernel

/-- Frame 21: 100 against 7, but 13220 after the last beat. -/
theorem test_detector_refractory :
    (processFrame Cfg.default [0, 200, 0, 0, 0] [1000] 464400
      { detectorA with prevSpec := [100, 0, 0, 0], hist := historyA ++ [90], lastBeat := 451180, lbValid := true }).2 =
      none := by decide +kernel

/-- Sequence B, frame 10: 500 against 226. -/
theorem test_detector_energy :
    (processFrame Cfg.energyProfile [0, 300] [0] 208980
      { State.reset.det with ePrev := 100, hist := [200, 100, 100, 100, 100, 100, 100, 100, 100] }).2 =
      some 208980 ∧
      threshold Cfg.energyProfile [200, 100, 100, 100, 100, 100, 100, 100, 100, 500] = 226 := by decide +kernel

/-- The first of two equal maxima; -32768 is the loudest sample (R149, R151). -/
theorem test_detector_peak :
    peakIndex [0, 5, -9, 3, 9] = 2 ∧ peakLevel [0, -32768, 32767] = 32768 ∧ peakIndex [0, 0] = 0 := by decide +kernel

/-- Items fail, fail, fail with the limit 3 (95_test_vectors.md 3.2). -/
theorem test_readFail :
    ((readFail { State.reset with det := { State.reset.det with failCnt := 1 } }).log.map logWords =
        [[0x04010002, 0, 0]]) ∧
      (readFail { State.reset with det := { State.reset.det with failCnt := 2 }, time := 5000000000 }).log.map logWords =
        [[0x03010003, 0x2A05F200, 0x00000001]] := by decide +kernel

/-- DELIVER consumes the event; the engine processes it (95_test_vectors.md program 5). -/
theorem test_deliver :
    (make .capture { withEng (fun e => { e with preset := 1 }) with mbox := { valid := true, ts := 451180 } }).mbox.valid =
      false ∧
      (make .capture { withEng (fun e => { e with preset := 1 }) with
        mbox := { valid := true, ts := 451180 } }).eng.lastBeat = 451180 := by decide +kernel

theorem test_getVolume :
    answer [0x30000000] { State.reset with det := { State.reset.det with vol := 32768 } } = [0x00008000] := by
  decide +kernel

/-- Two samples make a frame of two; its capture time is that of the first (10_state.md R49). -/
theorem test_assembler :
    (assemble 7 { assemble (-3) { resetWith { Cfg.default with frameLen := 2 } Environment.initial with time := 5 } with
      time := 28 }).env.audio = [.frame 5 [-3, 7]] := by decide +kernel

/-! ## The transmit loop (95_test_vectors.md 3.6, 3.1) -/

/-- N = 64, the loop running, a cycle that started at 1000. -/
def cycleAt (t : Time) (p : Phase) (ok : Bool) : State :=
  { sized 64 with
    time := t, env := { Environment.initial with sinkOks := [ok] },
    loops := { State.reset.loops with runTx := true },
    tx := { (sized 64).tx with phase := p, cycleStart := 1000, nextStart := 1000 } }

theorem test_tx_break :
    (make .tx (cycleAt 1000 .idle true)).tx.line = false ∧ (make .tx (cycleAt 1000 .idle true)).tx.phase = .breakLow ∧
      (make .tx (cycleAt 1176 .breakLow true)).tx.lineTrace = [⟨true, 1176, 16⟩] ∧
      make .tx (cycleAt 1175 .breakLow true) = cycleAt 1175 .breakLow true := by decide +kernel

/-- The snapshot at 1192, and the failed write: the log record and the pause of 100000. -/
theorem test_tx_snapshot_or_failure :
    (make .tx { cycleAt 1192 .mab true with ch := [(1, 77)] }).tx.snap = 0 :: 77 :: List.replicate 63 0 ∧
      (make .tx (cycleAt 1192 .mab false)).log.map logWords = [[0x04030000, 0x000004A8, 0x00000000]] ∧
      (make .tx (cycleAt 1192 .mab false)).tx.nextStart = 101192 := by decide +kernel

/-- The bits of 0xC8 (95_test_vectors.md 3.1, line characters). -/
theorem test_tx_bits :
    slotBits 0xC8 = [false, false, false, false, true, false, false, true, true, true, true] ∧
      slotBits 0x01 = [false, true, false, false, false, false, false, false, false, true, true] := by decide +kernel

/-- END at 4052: the next cycle at 34333. -/
theorem test_tx_end :
    (txEnd { cycleAt 4052 .data true with
      tx := { (cycleAt 4052 .data true).tx with slot := 64, bit := 11 } }).tx.nextStart = 34333 := by decide +kernel

/-- The overrun at N = 512 and 50 Hz. -/
theorem test_tx_overrun :
    (txEnd { State.reset with cfg := { Cfg.default with txRateHz := 50 }, time := 22764 }).log.map logWords =
      [[0x05030ACC, 0x000058EC, 0x00000000]] := by decide +kernel

/-! ## The orchestrator (95_test_vectors.md 3.7) -/

/-- Reset with answers of AUDIO_CONNECT and SERIAL_CONNECT, and FALLBACK_EN. -/
def devices (audio serial fallback : Bool) : State :=
  resetWith { Cfg.default with fallbackEn := fallback }
    { Environment.initial with audioConnects := [audio], serialConnects := [serial] }

theorem test_start :
    answer [0x40000007] (devices true true true) = [7] ∧ answer [0x40000000] State.reset = [0] ∧
      answer [0x40000007] (devices true false false) = [0x03000004] ∧
      answer [0x40000007] (devices false false false) = [0x03000005] ∧
      answer [0x40000003] (devices true false false) = [3] := by decide +kernel

theorem test_start_degraded :
    answer [0x40000007] (devices true false true) = [7] ∧
      (send [0x40000007] (devices true false true)).tx.virtualSink = true ∧
      (send [0x40000007] (devices true false true)).log.map logWords = [[0x03030001, 0, 0]] ∧
      answer [0x40000007] (devices false true true) = [0x03000001] ∧
      answer [0x40000006] (devices false true true) = [6] := by decide +kernel

/-- The ticker running, its next tick at 61000, asked to stop at 50000. -/
def ticking (t : Time) (stop : Bool) : State :=
  { State.reset with
    time := t, loops := { State.reset.loops with runTick := true, stopTick := stop, nextTick := 61000 } }

theorem test_stop :
    answer [0x41000002] (ticking 50000 false) = [2] ∧
      (send [0x41000002] (ticking 50000 false)).loops.stopTick = true ∧ answer [0x41000000] State.reset = [0] ∧
      (send [0x41000002] State.reset).loops.stopTick = false := by decide +kernel

/-- TICK on the grid, and the stop honoured without an UPDATE. -/
theorem test_tick :
    (make .ticker (ticking 61000 false)).loops.nextTick = 81000 ∧
      (make .ticker (ticking 61000 false)).eng.lastTick = 61000 ∧
      (make .ticker (ticking 61000 true)).loops.runTick = false ∧
      (make .ticker (ticking 61000 true)).eng.lastTick = 0 ∧ make .ticker (ticking 60999 false) = ticking 60999 false := by
  decide +kernel

/-- TIME stops at the deadline of a tick (44_orchestrator.md R308). -/
theorem test_time :
    (make (.time 11000) (ticking 50000 false)).time = 61000 ∧ (make (.time 11001) (ticking 50000 false)).time = 50000 := by
  decide +kernel

/-- The reset input (70_reset_and_hazards.md R360). -/
theorem test_reset_input : make .reset (send [0x2400007C] State.reset) = State.reset := by decide +kernel

/-! ## Witnesses: what each statement assumes can all be met together -/

/-- Whether an outcome is a next state. -/
def goes (o : Host.Outcome State Fault Refusal) : Bool :=
  match o with
  | .next _ => true
  | .fault _ => false
  | .refused _ => false

/-- The next state of an outcome that has one. -/
def got (o : Host.Outcome State Fault Refusal) : State :=
  match o with
  | .next t => t
  | .fault _ => State.reset
  | .refused _ => State.reset

theorem goes_next {o : Host.Outcome State Fault Refusal} (h : goes o = true) : o = .next (got o) := by
  cases o <;> simp_all [goes, got]

/-- The state after reset with preset `k` selected. -/
def onPreset (k : Nat) : State := withEng fun e => { e with preset := BitVec.ofNat 8 k }

/-- Entry `k` of the default table. -/
def entry (k : Nat) : Descriptor := defaultPresets.getD k { name := "", kind := .blackout, base := uniform black }

/-- What `Renderable` asks, as one evaluation. -/
def rendersCheck (s : State) (d : Descriptor) : Bool :=
  s.cfg.presetTable[s.eng.preset.toNat]? == some d && d.wf && !s.cfg.randomPalette.isEmpty && s.eng.bpm != 0 &&
    rangesFit s.n s.eng.addr && Memory.wf s.ch

theorem renderable_of_check {s : State} {d : Descriptor} (h : rendersCheck s d = true) : Renderable s d := by
  simp only [rendersCheck, Bool.and_eq_true, beq_iff_eq, bne_iff_ne, Bool.not_eq_true', List.isEmpty_eq_false_iff] at h
  obtain ⟨⟨⟨⟨⟨h1, h2⟩, h3⟩, h4⟩, h5⟩, h6⟩ := h
  exact ⟨⟨h1, h2, h3⟩, h4, h5, h6⟩

/-- Every entry of the default table, at the state after reset with that entry selected. -/
theorem witness_Renderable (k : Nat) (hk : k < 13) : Renderable (onPreset k) (entry k) := by
  have h : List.all (List.range 13) (fun k => rendersCheck (onPreset k) (entry k)) = true := by decide +kernel
  exact renderable_of_check (List.all_eq_true.mp h k (List.mem_range.mpr hk))

theorem witness_DecodeOfEncode :
    (Instr.setAddress 15 4095).wellFormed = true ∧ (Instr.setChannels []).wellFormed = true := by decide

theorem witness_EncodeOfDecode :
    decode [0x22F00FFF] = .ok (.setAddress 15 4095) ∧ decode [0x11000000] = .ok (.setChannels []) := by decide

/-- The all-zero header at an empty port and as a complete command; a pair word with bit 24 set after a good one. -/
theorem witness_IllegalEncodings :
    (∀ o : Opcode, (0x00000000#32) &&& headerMask o ≠ headerMatch o) ∧ State.reset.port.cBuf = [] ∧
      ((0x11002000 : Word) &&& 0xFF000FFF = 0x11000000 ∧
        ([0x00001005] ++ (0x01001005 : Word) :: []).length = ((0x11002000 : Word).extractLsb' 12 12).toNat ∧
        (∀ v ∈ [(0x00001005 : Word)], v.extractLsb' 24 8 = 0) ∧ (0x01001005 : Word).extractLsb' 24 8 ≠ 0) := by
  exact ⟨fun o => by cases o <;> decide, by decide, by decide, by decide, by simp, by decide⟩

/-- A line that is taken, one without a comment, pairs that fit and a pair that does not, a name of the table at its
entry, and a name that is not in the table. -/
theorem witness_AssemblerReadsLines :
    assembleLine Cfg.default "set_channels 512=255" = some (.setChannels [⟨512, 255⟩]) ∧ ';' ∉ "blackout".toList ∧
      (∀ p ∈ ([(0, -2048), (4095, 2047)] : List (Int × Int)),
        0 ≤ p.1 ∧ p.1 < 4096 ∧ -2048 ≤ p.2 ∧ p.2 ≤ 2047) ∧
      (¬∀ p ∈ ([(1, 2), (4096, 0)] : List (Int × Int)), 0 ≤ p.1 ∧ p.1 < 4096 ∧ -2048 ≤ p.2 ∧ p.2 ≤ 2047) ∧
      (∀ name ∈ ["strobe_white", "no_such_preset"],
        isOperand name.toList = true ∧ name.toList.head? ≠ some '#') ∧
      (Cfg.default.presetTable[4]?.map (·.name) = some "strobe_white" ∧
        ∀ j < 4, Cfg.default.presetTable[j]?.map (·.name) ≠ some "strobe_white") ∧
      ∀ d ∈ Cfg.default.presetTable, d.name ≠ "no_such_preset" :=
  ⟨by decide, by decide, by decide, by decide, by decide, by decide, by decide⟩

theorem witness_StepRunsDecoded :
    (State.reset.withFetchWord 32 0x2400007C).nextMove = .host ∧
      (State.reset.withFetchWord 32 0x2400007C).port = ⟨[0x2400007C], 0⟩ ∧ decode [0x2400007C] = .ok (.setBpm 124) := by
  decide

theorem witness_WordsAssemble : (Instr.beat 5000000000).wellFormed = true ∧ State.reset.port = readyPort := by decide

/-- Two operand words missing, and one. -/
theorem witness_PartialCommandHeld :
    let p : State := (State.reset.receiveWord 0x25000000)
    p.port = ⟨[0x25000000], 2⟩ ∧ (p.receiveWord 7).port = ⟨[0x25000000, 7], 1⟩ := by decide

theorem witness_OneResponsePerCommand :
    goes (exec .getStatus State.reset) = true ∧ goes (step (next [.capture] State.reset)) = true ∧
      (next [.capture] State.reset).nextMove = .capture := by decide +kernel

/-- SET_BPM 0; START of the transmit loop with no device and no fallback. -/
theorem witness_ErrorsLeaveState :
    (got (exec (.setBpm 0) State.reset)).resp = State.reset.resp ++ [0x01000000] ∧
      goes (exec (.start 4) (devices true false false)) = true ∧
      (got (exec (.start 4) (devices true false false))).resp = [0x03000004] ∧
      (0x03000004 : Word).getLsbD 2 = true ∧ (0x03000004 : Word).extractLsb' 24 8 ≠ 0 := by decide +kernel

theorem witness_ResetInput : (next [.reset] (ticking 61000 false)).nextMove = .reset := by decide

/-- A state with the ticker running, a tick due, a sample held and a channel lit. -/
def busy : State :=
  { next [.ticker] (ticking 61000 false) with
    ch := [(512, 255)], fa := { buf := [7], cnt := 1, tcap := 60000 }, port := { cBuf := [0x25000000], cNeed := 2 } }

theorem default_wf : Cfg.default.Wf := by constructor <;> decide

theorem busy_legal : Legal busy := by
  constructor
  case cfg_wf => exact default_wf
  case frames_fit => exact fun f hf => absurd hf (by simp [busy, next, ticking, State.reset, resetWith])
  case port_fits => show _ = _; decide
  all_goals decide +kernel

theorem witness_StepKeepsLegal : Legal busy ∧ goes (step busy) = true := ⟨busy_legal, by decide +kernel⟩

theorem witness_LegalNeverFaults : Legal busy := busy_legal

theorem witness_ChannelSpaceStaysCanonical :
    Memory.wf busy.ch = true ∧ Memory.within busy.n busy.ch = true ∧ goes (step busy) = true := by decide +kernel

/-- A step of every agent and every input goes on. -/
theorem witness_AgentsOwnTheirRegisters :
    List.all [.time 1, .word 5, .host, .sample 3, .audioItem .fail, .audioLost 0, .capture, .ticker, .tx, .lineNoise true]
      (fun m => goes (step (next [m] busy)) && (next [m] busy).nextMove == m) = true ∧
      (send [0x40000007] (devices true false true)).tx.virtualSink = true := by decide +kernel

/-- The capture loop running, with failures behind it and the next item given. -/
def capturing (failures : BitVec 8) (stop : Bool) (items : List AudioItem) : State :=
  { State.reset with
    env := { Environment.initial with moves := [.capture], audio := items },
    det := { State.reset.det with failCnt := failures },
    loops := { State.reset.loops with runCapture := true, stopCapture := stop } }

/-- The end of the last slot of a cycle that started at 1000, at the bit and slot given, N = 64. -/
def sending (slot : BitVec 10) (bit : Nat) (rate : Nat) : State :=
  { cycleAt (BitVec.ofNat 64 (1192 + 44 * slot.toNat + 4 * bit)) .data true with
    cfg := { withN 64 with txRateHz := rate },
    tx := { (cycleAt 0 .data true).tx with slot := slot, bit := bit, cycleStart := 1000 } }

/-- The five events: a failure below the limit, at the limit, a failed write, an overrun, a fall back. -/
theorem witness_LogRecordsTheFiveEvents :
    List.all [capturing 1 false [.fail], capturing 2 false [.fail], next [.tx] (cycleAt 1192 .mab false),
      next [.tx] (sending 64 11 1000),
      { next [.host] (devices true false true) with port := { cBuf := [0x40000004], cNeed := 0 } }]
      (fun s => goes (step s) && s.nextMove != .reset && s.log.length + 1 == (got (step s)).log.length) = true := by
  decide +kernel

/-- Up to the tick's deadline, and at the premise's end. -/
theorem witness_TimeAdvances :
    (goes (step (next [.time 11000] (ticking 50000 false))) = true ∧
      (got (step (next [.time 11000] (ticking 50000 false)))).time ≠ 50000) ∧
    ((next [.time 1] { State.reset with time := 2 ^ 63 - 1 }).nextMove = .time 1 ∧
      2 ^ 63 ≤ (next [.time 1] { State.reset with time := 2 ^ 63 - 1 }).time.toNat + 1 ∧
      (next [.time 1] State.reset).loops.runTick = false ∧ (next [.time 1] State.reset).loops.runTx = false) := by
  decide +kernel

/-- Both ends of both ranges, and one past each. -/
theorem witness_SetChannel :
    Memory.wf State.reset.ch = true ∧ State.reset.n = 512 ∧
      (1 ≤ (1 : BitVec 12).toNat ∧ (512 : BitVec 12).toNat ≤ State.reset.n ∧ 0 ≤ (0 : BitVec 12).toInt ∧
        (255 : BitVec 12).toInt ≤ 255) ∧
      ((0 : BitVec 12).toNat < 1 ∧ State.reset.n < (513 : BitVec 12).toNat ∧ (-1 : BitVec 12).toInt < 0 ∧
        255 < (256 : BitVec 12).toInt) := by decide

theorem witness_SetChannels :
    (∀ p ∈ [(⟨1, 0⟩ : Pair), ⟨512, 255⟩], pairInRange State.reset.n p) ∧
      (∀ q ∈ [(⟨512, 255⟩ : Pair)], q.idx ≠ (⟨1, 0⟩ : Pair).idx) ∧ ¬pairInRange State.reset.n ⟨513, 0⟩ ∧
      ¬pairInRange State.reset.n ⟨0, 0⟩ ∧ ¬pairInRange State.reset.n ⟨1, 256⟩ ∧ ¬pairInRange State.reset.n ⟨1, -1⟩ := by
  unfold pairInRange
  decide

theorem witness_GetChannel :
    1 ≤ (1 : BitVec 12).toNat ∧ (512 : BitVec 12).toNat ≤ State.reset.n ∧ (0 : BitVec 12).toNat < 1 ∧
      State.reset.n < (513 : BitVec 12).toNat := by decide

theorem witness_FillCommands :
    (0 ≤ (0 : BitVec 12).toInt ∧ (255 : BitVec 12).toInt ≤ 255) ∧ (-1 : BitVec 12).toInt < 0 ∧
      255 < (256 : BitVec 12).toInt := by decide

theorem witness_BufferProperties :
    Memory.wf (sized 64).ch = true ∧ (sized 64).n = 64 ∧ 1 ≤ (64 : BitVec 12).toNat ∧
      (64 : BitVec 12).toNat ≤ (sized 64).n ∧ 0 ≤ (255 : BitVec 12).toInt ∧ (255 : BitVec 12).toInt ≤ 255 ∧
      ¬(65 : BitVec 12).toNat ≤ (sized 64).n := by decide

theorem witness_CommandsIgnoreTransmit :
    goes (exec (.update 0) State.reset) = true ∧ ∀ mask, Instr.update 0 ≠ .start mask ∧ Instr.update 0 ≠ .stop mask :=
  ⟨by decide +kernel, fun _ => ⟨Instr.noConfusion, Instr.noConfusion⟩⟩

/-- A header with a bit set that must be zero, for each format that has such bits. -/
theorem witness_ZeroBitsRefused :
    List.all [(Opcode.getChannel, 0x00000FFF, 0x12005001), (.blackout, 0x00FFFFFF, 0x13800000),
      (.setAll, 0x00FFF000, 0x14001007), (.setPreset, 0x00FFFF00, 0x20000100), (.setAudioReactive, 0x00FFFFFE, 0x21000002),
      (.setAddress, 0x000FF000, 0x22001001), (.setBpm, 0x00FF0000, 0x24010078), (.getStatus, 0x00FFFFFF, 0x23000001),
      (.beat, 0x00FFFFFF, 0x25000001), (.trigger, 0x00FFFFFF, 0x26800000), (.update, 0x00FFFFFF, 0x27000002),
      (.getVolume, 0x00FFFFFF, 0x30000001), (.start, 0x00FFFFF8, 0x40000008), (.stop, 0x00FFFFF8, 0x41000010)]
      (fun (p : Opcode × Word × Word) => p.2.2.extractLsb' 24 8 == opByte p.1 && p.2.2 &&& p.2.1 != 0) = true := by
  decide

theorem witness_SetPreset :
    Cfg.default.presetTable[(12 : BitVec 8).toNat]? = some (entry 12) ∧
      Cfg.default.presetTable.length ≤ (13 : BitVec 8).toNat := by decide

/-- Each fixture at the last address that fits, and one further. -/
theorem witness_SetAddress :
    State.reset.n ≤ 512 ∧ (510 : BitVec 12).toNat + Fixture.panelA.width - 1 ≤ State.reset.n ∧
      (510 : BitVec 12).toNat + Fixture.panelB.width - 1 ≤ State.reset.n ∧
      (499 : BitVec 12).toNat + Fixture.bar.width - 1 ≤ State.reset.n ∧
      State.reset.n < (511 : BitVec 12).toNat + 3 - 1 ∧ State.reset.n < (500 : BitVec 12).toNat + 14 - 1 ∧
      2 < (3 : BitVec 4).toNat ∧ (0 : BitVec 12).toNat < 1 := by decide

theorem witness_SetBpm : (1 : BitVec 16) ≠ 0 := by decide

/-- Before any beat, and after one. -/
theorem witness_GetStatus :
    State.reset.eng.lbValid = false ∧ (withEng fun e => { e with lbValid := true }).eng.lbValid = true := by decide

/-- PULSE_DECAY after a beat at 0: debounced at 200000, free at 200001; audio-reactive mode off; the blackout. -/
theorem witness_Beat :
    ActiveIs (withEng fun e => { e with preset := 1, lbValid := true }) (entry 1) ∧
      ActiveIs (lit 1 (uniform white) id) (entry 1) ∧ ActiveIs State.reset (entry 0) ∧ (entry 0).kind = .blackout ∧
      (entry 1).kind ≠ .blackout ∧ (200000 : Time).toNat - (0 : Time).toNat ≤ 200000 ∧
      200000 < (200001 : Time).toNat - (0 : Time).toNat ∧ (lit 1 (uniform white) id).eng.audioReactive = false := by
  refine ⟨⟨?_, ?_, ?_⟩, ⟨?_, ?_, ?_⟩, ⟨?_, ?_, ?_⟩, ?_⟩ <;> decide

theorem witness_Trigger :
    (ActiveIs (withEng fun e => { e with preset := 1, lbValid := true }) (entry 1) ∧ (entry 1).kind ≠ .blackout ∧
        (withEng fun e => { e with preset := 1, lbValid := true }).eng.lbValid = true ∧
        (200000 : Time).toNat - (0 : Time).toNat ≤ 200000 ∧ 200000 < (200001 : Time).toNat - (0 : Time).toNat) ∧
      ActiveIs State.reset (entry 0) ∧ (entry 0).kind = .blackout := by
  refine ⟨⟨⟨?_, ?_, ?_⟩, ?_⟩, ⟨?_, ?_, ?_⟩, ?_⟩ <;> decide

theorem runsTo_step {s : State} (hm : s.nextMove ≠ .reset) (h : goes (step s) = true) : RunsTo s (got (step s)) :=
  .tail .refl hm (goes_next h)

/-- A processed beat at 200001 after one at 0. -/
def beatComing : State :=
  { withEng fun e => { e with preset := 1, lbValid := true } with
    env := { Environment.initial with moves := [.host] }, port := { cBuf := [0x25000000, 200001, 0], cNeed := 0 } }

theorem witness_BeatClock :
    RunsTo beatComing (got (step beatComing)) ∧ beatComing.eng.lbValid = true ∧
      (got (step beatComing)).eng.lastBeat = 200001 :=
  ⟨runsTo_step (by decide) (by decide +kernel), by decide, by decide +kernel⟩

theorem witness_Update : Renderable (onPreset 1) (entry 1) ∧ SynthesizesAt (onPreset 1) (entry 1) 0 ∧
    Renderable (onPreset 5) (entry 5) ∧ ¬SynthesizesAt (withEng fun e => { e with preset := 1, lbValid := true }) (entry 1) 500000 := by
  refine ⟨witness_Renderable 1 (by decide), ?_, witness_Renderable 5 (by decide), ?_⟩ <;> unfold SynthesizesAt <;> decide

theorem witness_UpdateBlackout : Renderable (onPreset 0) (entry 0) ∧ (entry 0).kind = .blackout :=
  ⟨witness_Renderable 0 (by decide), by decide⟩

theorem witness_UpdateDecayKinds :
    (Renderable (onPreset 1) (entry 1) ∧ (entry 1).kind = .pulseDecay) ∧
      Renderable (onPreset 7) (entry 7) ∧ (entry 7).kind = .cyclicPalette :=
  ⟨⟨witness_Renderable 1 (by decide), by decide⟩, witness_Renderable 7 (by decide), by decide⟩

theorem witness_UpdateSineKinds :
    (Renderable (onPreset 2) (entry 2) ∧ (entry 2).kind = .sineBreath) ∧
      Renderable (onPreset 10) (entry 10) ∧ (entry 10).kind = .crossfade :=
  ⟨⟨witness_Renderable 2 (by decide), by decide⟩, witness_Renderable 10 (by decide), by decide⟩

theorem witness_UpdateTimeKinds :
    (Renderable (onPreset 3) (entry 3) ∧ (entry 3).kind = .rainbowHue) ∧
      Renderable (onPreset 4) (entry 4) ∧ (entry 4).kind = .strobe :=
  ⟨⟨witness_Renderable 3 (by decide), by decide⟩, witness_Renderable 4 (by decide), by decide⟩

/-- GLITCH of the default table does not randomize; its draw may come from the list. -/
theorem witness_UpdateGlitch :
    Renderable (onPreset 5) (entry 5) ∧ (entry 5).kind = .glitch ∧ (entry 5).onBeat ≠ .randomize ∧
      ({ Environment.initial with draws := [3277] } : Environment).draws = 3277 :: [] :=
  ⟨witness_Renderable 5 (by decide), by decide, by decide, by decide⟩

theorem witness_UpdateToggleKinds :
    (Renderable (onPreset 6) (entry 6) ∧ (entry 6).kind = .alternating) ∧
      Renderable (onPreset 9) (entry 9) ∧ (entry 9).kind = .twoToneFlash :=
  ⟨⟨witness_Renderable 6 (by decide), by decide⟩, witness_Renderable 9 (by decide), by decide⟩

/-- A state to compare with `onPreset 9`: another preset, another modulation state, a lit channel. -/
def residue : State :=
  { withEng (fun e => { e with preset := 3, base := uniform red, toggle := true, envelope := 5 }) with ch := [(4, 9)] }

/-- Preset 1, which takes no draw, selected in both. -/
theorem witness_NoResidueAfterSetPreset :
    (onPreset 9).cfg = residue.cfg ∧ SameBeatAndPlace (onPreset 9).eng residue.eng ∧
      Memory.wf (onPreset 9).ch = true ∧ Memory.wf residue.ch = true ∧
      residue.cfg.presetTable[(1 : BitVec 8).toNat]? = some (entry 1) ∧
      ((entry 1).kind ≠ .glitch ∧ (entry 1).onBeat ≠ .randomize) ∧
      List.all [onPreset 9, residue] (fun s => goes (exec (.setPreset 1) s) &&
        goes (exec (.update 7) (got (exec (.setPreset 1) s)))) = true :=
  ⟨rfl, ⟨rfl, rfl, rfl, rfl, rfl⟩, by decide, by decide, by decide, by decide, by decide +kernel⟩

theorem witness_Numerics :
    (∀ x ∈ ([0, 0] : List Sample), x = 0) ∧ 1 ≤ 7741920 ∧
      List.all [(0, 0, 0), (10922, 0, 254), (10923, 1, 0), (65535, 5, 254)]
        (fun p : Nat × Nat × Nat => p.1 < 65536 && p.2.1 == p.1 * 6 / 65536 &&
          p.2.2 == 255 * (p.1 * 6 % 65536) / 65536) = true :=
  ⟨by simp, by omega, by decide⟩

/-- A frame of the default length, captured at the present time, its peak at sample 441. -/
def tapFrame : List Sample := List.replicate 441 0 ++ -32768 :: List.replicate 582 7

/-- A configuration whose frames are of two samples. -/
def pairFrames : State := resetWith { Cfg.default with frameLen := 2 } Environment.initial

/-- The first sample of a frame, its last, and both. -/
theorem witness_PushFrame_samples :
    pairFrames.fa.cnt = 0 ∧ pairFrames.fa.cnt + 1 < pairFrames.cfg.frameLen ∧
      (assemble 7 pairFrames).cfg.frameLen ≤ (assemble 7 pairFrames).fa.cnt + 1 ∧
      [((3 : Time), (9 : Sample))].length + 1 = pairFrames.cfg.frameLen := by decide

theorem witness_PushFrame :
    (capturing 0 false [.frame 0 tapFrame]).cfg.Wf ∧ (capturing 0 false [.frame 0 tapFrame]).mbox.valid = false ∧
      (capturing 0 false [.frame 0 tapFrame]).loops.runCapture = true ∧
      (capturing 0 false [.frame 0 tapFrame]).loops.stopCapture = false ∧
      (capturing 0 false [.frame 0 tapFrame]).env.audio = .frame 0 tapFrame :: [] ∧
      tapFrame.length = (capturing 0 false [.frame 0 tapFrame]).cfg.frameLen ∧
      (0 : Time).toNat ≤ (capturing 0 false [.frame 0 tapFrame]).time.toNat ∧
      historyA.length + 1 = Cfg.default.histMin ∧ threshold Cfg.default (historyA ++ [90]) < 90 :=
  ⟨default_wf, by decide, by decide, by decide, rfl, by decide +kernel, by decide, by decide,
    by decide +kernel⟩

/-- An odd and an even history, sorted. -/
theorem witness_Threshold :
    Cfg.default.threshStat = .median ∧ Cfg.energyProfile.threshStat = .mean ∧
      [1, 2, 3].Perm (([3, 1, 2] : List (BitVec 48)).map (·.toNat)) ∧ [1, 2, 3].Pairwise (· ≤ ·) ∧
      [1, 2].Perm (([2, 1] : List (BitVec 48)).map (·.toNat)) ∧ [1, 2].Pairwise (· ≤ ·) := by decide

/-- A run of one capture step after a beat was stored. -/
theorem witness_RefractoryInterval :
    RunsTo { capturing 0 false [] with det := { State.reset.det with lbValid := true } }
        (got (step { capturing 0 false [] with det := { State.reset.det with lbValid := true } })) ∧
      Cfg.default.Wf ∧ (capturing 0 false []).time.toNat < 2 ^ 63 :=
  ⟨runsTo_step (by decide) (by decide +kernel), default_wf, by decide⟩

/-- The five branches of the capture agent's step. -/
theorem witness_CaptureOrder :
    (ActiveIs { onPreset 1 with mbox := { valid := true, ts := 5 } } (entry 1) ∧
        ({ onPreset 1 with mbox := { valid := true, ts := 5 } } : State).mbox.valid = true) ∧
      ((capturing 0 true []).mbox.valid = false ∧ (capturing 0 true []).loops.runCapture = true ∧
        (capturing 0 true []).loops.stopCapture = true) ∧
      (State.reset.mbox.valid = false ∧ State.reset.loops.runCapture = false) ∧
      ((capturing 0 false []).mbox.valid = false ∧ (capturing 0 false []).loops.stopCapture = false ∧
        (capturing 0 false []).env.audio = []) ∧
      ((capturing 0 false [.frame 0 [1]]).mbox.valid = false ∧
        (capturing 0 false [.frame 0 [1]]).loops.runCapture = true ∧
        (capturing 0 false [.frame 0 [1]]).loops.stopCapture = false ∧
        (capturing 0 false [.frame 0 [1]]).env.audio = .frame 0 [1] :: [] ∧
        (0 : Time).toNat ≤ (capturing 0 false [.frame 0 [1]]).time.toNat ∧
        [(1 : Sample)].length ≠ (capturing 0 false [.frame 0 [1]]).cfg.frameLen) := by
  refine ⟨⟨⟨?_, ?_, ?_⟩, ?_⟩, ?_⟩ <;> decide

/-- The limit not reached, reached, and the counter at its end. -/
theorem witness_ReadFail :
    List.all [1, 2, 255] (fun n => (capturing n false [.fail]).env.audio == [.fail] &&
      !(capturing n false [.fail]).mbox.valid && (capturing n false [.fail]).loops.runCapture &&
      !(capturing n false [.fail]).loops.stopCapture) = true := by decide

/-- Both break modes, of a legal configuration. -/
theorem witness_LineTiming :
    Cfg.default.Wf ∧ Cfg.default.breakMode = .trueBreak ∧
      ({ Cfg.default with breakMode := .baudDrop } : Cfg).breakMode = .baudDrop := ⟨default_wf, by decide, by decide⟩

/-- At the top of a loop: a stopped loop, before the start, asked to stop, with the virtual sink, and a real cycle. -/
def topCases : List State :=
  [sized 64, cycleAt 999 .sleep true,
    { cycleAt 1000 .sleep true with loops := { State.reset.loops with runTx := true, stopTx := true } },
    { cycleAt 1000 .pause true with tx := { (cycleAt 1000 .pause true).tx with virtualSink := true } },
    cycleAt 1000 .idle true]

theorem witness_TransmitTop :
    topCases.map (fun s => (atTop s.tx.phase, s.loops.runTx, decide (s.tx.nextStart.toNat ≤ s.time.toNat), s.loops.stopTx,
      s.tx.virtualSink)) =
      [(true, false, true, false, false), (true, true, false, false, false), (true, true, true, true, false),
        (true, true, true, false, true), (true, true, true, false, false)] ∧
      (cycleAt 1000 .idle true).sinkOk = true := by decide +kernel

theorem witness_TransmitMarkAndSnapshot :
    List.all [cycleAt 1176 .breakLow true, cycleAt 1176 .breakLow false] (fun s => s.loops.runTx &&
      s.tx.phase == .breakLow && s.time.toNat == s.tx.cycleStart.toNat + lowUs s.cfg) = true ∧
      List.all [cycleAt 1192 .mab true, cycleAt 1192 .mab false] (fun s => s.loops.runTx &&
        s.tx.phase == .mab && s.time.toNat == s.tx.cycleStart.toNat + lowUs s.cfg + highUs s.cfg) = true ∧
      (cycleAt 1192 .mab true).sinkOk = true ∧ (cycleAt 1192 .mab false).sinkOk = false := by decide +kernel

/-- A microsecond early and a microsecond late in each phase of a cycle, and a loop that does not run. -/
theorem witness_transmit_no_step :
    List.all [(cycleAt 1175 .breakLow true, 1176), (cycleAt 1177 .breakLow true, 1176), (cycleAt 1191 .mab true, 1192),
        (cycleAt 1193 .mab true, 1192), ({ sending 3 5 30 with time := 1343 }, 1344),
        ({ sending 3 5 30 with time := 1345 }, 1344)]
      (fun p => p.1.time.toNat != p.2 && p.2 == txDue p.1) = true ∧
      ({ cycleAt 1176 .breakLow true with loops := State.reset.loops } : State).loops.runTx = false := by
  decide +kernel

/-- The first and the last bit, the end of a slot, and the end of the last slot within the period and beyond it. -/
theorem witness_TransmitDataAndEnd :
    List.all [sending 0 0 30, sending 0 10 30, sending 63 11 30, sending 64 11 30, sending 64 11 1000]
      (fun s => s.loops.runTx && s.tx.phase == .data && s.tx.snap[s.tx.slot.toNat]? == some 0 &&
        s.time.toNat == s.tx.cycleStart.toNat + lowUs s.cfg + highUs s.cfg + 44 * s.tx.slot.toNat + 4 * s.tx.bit) = true ∧
      lowUs (withN 64) + highUs (withN 64) + 44 * 65 ≤ periodUs (sending 64 11 30).cfg ∧
      periodUs (sending 64 11 1000).cfg < lowUs (withN 64) + highUs (withN 64) + 44 * 65 := by decide +kernel

/-- The snapshot is taken; a frame ends. -/
theorem witness_FramesAreSnapshots :
    goes (step (next [.tx] (cycleAt 1192 .mab true))) = true ∧
      (got (step (next [.tx] (cycleAt 1192 .mab true)))).tx.phase = .data ∧
      goes (step (next [.tx] (sending 64 11 30))) = true ∧
      (got (step (next [.tx] (sending 64 11 30)))).tx.frames.length = 1 := by decide +kernel

/-- The serial device there, missing without a fallback, and missing with one. -/
theorem witness_Start :
    List.all [(true, false), (false, false), (false, true)] (fun p =>
      (!((7 : BitVec 3).getLsbD 2 && !(devices true p.1 p.2).loops.runTx && !(devices true p.1 p.2).tx.virtualSink) ||
        (devices true p.1 p.2).serialConnect) == p.1 && (devices true p.1 p.2).cfg.fallbackEn == p.2) = true := by
  decide

theorem witness_Tick :
    State.reset.loops.runTick = false ∧
      (60999 : Time).toNat < (ticking 60999 false).loops.nextTick.toNat ∧
      ((ticking 61000 false).loops.nextTick.toNat ≤ (ticking 61000 false).time.toNat ∧
        (ticking 61000 true).loops.stopTick = true ∧ (ticking 61000 false).loops.stopTick = false) ∧
      Renderable (ticking 61000 false) (entry 0) :=
  ⟨by decide, by decide, by decide, renderable_of_check (by decide +kernel)⟩

/-- Steps that start loops, ask them to stop, and end them. -/
theorem witness_LoopLifeCycle :
    List.all [{ next [.host] (devices true true true) with port := { cBuf := [0x40000007], cNeed := 0 } },
      { next [.host] (ticking 50000 false) with port := { cBuf := [0x41000002], cNeed := 0 } },
      next [.ticker] (ticking 61000 true), capturing 2 false [.fail], capturing 0 true [],
      next [.tx] { cycleAt 1000 .sleep true with loops := { State.reset.loops with runTx := true, stopTx := true } }]
      (fun s => flagsOk s.loops && goes (step s) && s.nextMove != .reset && s.loops != (got (step s)).loops) = true := by
  decide +kernel

end Sys2Proof.Tests
end

section
/-! PROOFS. The state after reset (10_state.md R54, 70_reset_and_hazards.md R360). -/

namespace Sys2Proof.Machine

/-- Reset gives every register the value of the reset table, whatever the configuration and the environment. -/
theorem resetWith_cleanReset (c : Cfg) (env : Environment) : CleanReset (resetWith c env) where
  time := rfl
  vol := rfl
  energy := rfl
  failures := rfl
  spectrum := rfl
  history := rfl
  detector_beat := ⟨rfl, rfl⟩
  mailbox := ⟨rfl, rfl⟩
  preset := rfl
  base := by
    intro d hd
    obtain ⟨rest, htable⟩ : ∃ rest, c.presetTable = d :: rest := by
      cases htable : c.presetTable with
      | nil => simp [resetWith, htable] at hd
      | cons d' rest =>
        have hd' : d' = d := by simpa [resetWith, htable] using hd
        exact ⟨rest, by rw [hd']⟩
    simp [resetWith, resetBase, htable]
  envelope := rfl
  counters := ⟨rfl, rfl, rfl⟩
  engine_beat := ⟨rfl, rfl⟩
  last_tick := rfl
  reactive := rfl
  addresses := rfl
  tempo := rfl
  channels := fun _ => rfl
  snapshot := rfl
  transmit := ⟨rfl, rfl, rfl, rfl, rfl⟩
  sink := rfl
  line := rfl
  loops_stopped := ⟨rfl, rfl, rfl⟩
  stops_clear := ⟨rfl, rfl, rfl⟩
  next_tick := rfl
  port := rfl
  frame_assembler := rfl
  outputs := ⟨rfl, rfl, rfl, rfl⟩

end Sys2Proof.Machine

namespace Sys2Proof.Proofs
open Sys2Proof.Machine

/-- Settles O13: `State.reset` is `resetWith` at the default configuration. -/
theorem resetState : Obligations.ResetState :=
  ⟨resetWith_cleanReset Cfg.default Environment.initial, rfl, rfl, rfl⟩

end Sys2Proof.Proofs

namespace Sys2Proof.Machine

/-- The reset state of a well-formed configuration is legal: every loop is stopped, so no deadline binds, and the ranges
R7 gives the configuration are those the registers need. -/
theorem resetWith_legal {c : Cfg} (env : Environment) (hc : c.Wf) (hp : c.errPauseUs ≤ 2 ^ 63) :
    Legal (resetWith c env) where
  cfg_wf := hc
  pause_fits := hp
  time_premise := show (0 : Time).toNat < 2 ^ 63 by decide
  vol_le := show (0 : BitVec 16).toNat ≤ 32768 by decide
  spec_len := List.length_replicate
  hist_len := Nat.zero_le _
  event_running := Bool.noConfusion
  preset_lt := hc.table_length.1
  envelope_le := show (65536 : BitVec 17).toNat ≤ 65536 by decide
  bpm_pos := hc.bpm_reset
  ranges_fit := hc.addr_reset
  ch_wf := rfl
  ch_within := rfl
  snap_len := List.length_replicate
  snap_zero := by simp [resetWith]
  slot_le := Nat.zero_le _
  bit_le := Nat.zero_le _
  frames_fit := fun _ hf => absurd hf List.not_mem_nil
  line_idle := fun _ => rfl
  line_break := Phase.noConfusion
  line_mark := fun _ _ => rfl
  tx_stopped := fun _ => rfl
  virtual_top := Bool.noConfusion
  flags_ok := rfl
  cycle_le := Nat.zero_le _
  next_start_le := Nat.zero_le _
  next_tick_le := Nat.zero_le _
  tx_deadline := Bool.noConfusion
  tick_deadline := Bool.noConfusion
  port_fits := rfl
  fa_cnt := ⟨Nat.zero_le _, show 0 < c.frameLen by have := hc.frame_range.1; omega⟩

/-- The default configuration has the ranges of 00_scope.md R7. -/
theorem cfgDefault_wf : Cfg.default.Wf := by constructor <;> decide

end Sys2Proof.Machine

namespace Sys2Proof.Proofs
open Sys2Proof.Machine

/-- Settles O15: the default configuration is well-formed, so its reset state is legal. -/
theorem resetLegal : Obligations.ResetLegal :=
  resetWith_legal Environment.initial cfgDefault_wf (by decide)

end Sys2Proof.Proofs
end

section
/-! PROOFS. Which agents write which registers, move by move, and that TIME moves by the environment's advance only
(10_state.md R21 to R53, 44_orchestrator.md R302, R308). -/

namespace Sys2Proof.Machine

/-- What the move `m` may write: the claim of `Obligations.AgentsOwnTheirRegisters` for a step that makes `m`
(`agentsOwnTheirRegisters` reads it off field by field). -/
structure Owned (m : Move) (s t : State) : Prop where
  cfg : t.cfg = s.cfg
  time : (∀ d, m ≠ .time d) → t.time = s.time
  det : m ≠ .capture → t.det = s.det ∨ m = .host ∧ t.det = { s.det with failCnt := 0 }
  mbox : m ≠ .capture → t.mbox = s.mbox
  eng : m ≠ .host → m ≠ .ticker → m ≠ .capture → t.eng = s.eng
  ch : m ≠ .host → m ≠ .ticker → t.ch = s.ch
  cycle : m ≠ .tx → t.tx.snap = s.tx.snap ∧ t.tx.slot = s.tx.slot ∧ t.tx.cycleStart = s.tx.cycleStart ∧
    t.tx.lineTrace = s.tx.lineTrace ∧ t.tx.frames = s.tx.frames ∧ t.tx.bit = s.tx.bit
  phase : m ≠ .tx → t.tx.phase = s.tx.phase ∧ t.tx.nextStart = s.tx.nextStart ∨
    m = .host ∧ s.loops.runTx = false ∧ t.loops.runTx = true ∧ t.tx.phase = .idle ∧ t.tx.nextStart = s.time
  virtualSink : m ≠ .host → t.tx.virtualSink = s.tx.virtualSink
  sticky : s.tx.virtualSink = true → t.tx.virtualSink = true
  line : m ≠ .tx → t.tx.line = s.tx.line ∨ (∃ b, m = .lineNoise b) ∧ s.sinkOk = false
  nextTick : m ≠ .ticker → t.loops.nextTick = s.loops.nextTick ∨
    m = .host ∧ s.loops.runTick = false ∧ t.loops.runTick = true ∧ t.loops.nextTick = s.time
  captureFlags : m ≠ .host → m ≠ .capture →
    t.loops.runCapture = s.loops.runCapture ∧ t.loops.stopCapture = s.loops.stopCapture
  tickFlags : m ≠ .host → m ≠ .ticker →
    t.loops.runTick = s.loops.runTick ∧ t.loops.stopTick = s.loops.stopTick
  txFlags : m ≠ .host → m ≠ .tx → t.loops.runTx = s.loops.runTx ∧ t.loops.stopTx = s.loops.stopTx
  fa : (∀ x, m ≠ .sample x) → m ≠ .capture → m ≠ .host → t.fa = s.fa
  port : (∀ w, m ≠ .word w) → m ≠ .host → t.port = s.port
  log : m ≠ .host → m ≠ .capture → m ≠ .tx → t.log = s.log
  resp : m ≠ .host → t.resp = s.resp

/-- A move that changes nothing respects every owner. -/
theorem Owned.refl (m : Move) (s : State) : Owned m s s where
  cfg := rfl
  time _ := rfl
  det _ := .inl rfl
  mbox _ := rfl
  eng _ _ _ := rfl
  ch _ _ := rfl
  cycle _ := ⟨rfl, rfl, rfl, rfl, rfl, rfl⟩
  phase _ := .inl ⟨rfl, rfl⟩
  virtualSink _ := rfl
  sticky := id
  line _ := .inl rfl
  nextTick _ := .inl rfl
  captureFlags _ _ := ⟨rfl, rfl⟩
  tickFlags _ _ := ⟨rfl, rfl⟩
  txFlags _ _ := ⟨rfl, rfl⟩
  fa _ _ _ := rfl
  port _ _ := rfl
  log _ _ _ := rfl
  resp _ := rfl

/-- The environment's own record has no owner among the agents. -/
theorem Owned.of_env (m : Move) (s : State) (e : Environment) : Owned m s { s with env := e } :=
  { Owned.refl m s with }

/-- That the move is no longer to come is not a change of any register. -/
theorem Owned.of_takeMove {m : Move} {s t : State} (h : Owned m s.takeMove t) : Owned m s t := { h with }

/-! ## The moves of the environment -/

theorem owned_time {d : Nat} {s t : State} (h : advanceTime d s = .next t) : Owned (.time d) s t := by
  rcases advanceTime_cases d s with ⟨-, k⟩ | ⟨-, -, k⟩ | ⟨-, -, k, -⟩ <;> rw [k] at h
  · cases h
    exact .refl _ s
  · cases h
  · cases h
    exact { Owned.refl (.time d) s with time := fun hm => absurd rfl (hm d) }

theorem owned_word (w : Word) (s : State) : Owned (.word w) s (s.receiveWord w) := by
  rw [receiveWord_frame]
  exact { Owned.refl (.word w) s with port := fun hm => absurd rfl (hm w) }

theorem owned_sample (x : Sample) (s : State) : Owned (.sample x) s (assemble x s) := by
  rw [assemble_frame]
  exact { Owned.refl (.sample x) s with fa := fun hm => absurd rfl (hm x) }

theorem owned_lineNoise (b : Bool) (s : State) : Owned (.lineNoise b) s (lineNoise b s) := by
  rcases lineNoise_cases b s with k | ⟨hfail, -, k⟩ <;> rw [k]
  · exact .refl _ s
  · exact { Owned.refl (.lineNoise b) s with line := fun _ => .inr ⟨⟨b, rfl⟩, hfail⟩ }

/-! ## The agents' moves -/

/-- A command owns what `ExecFrame` and `ExecTimers` leave open. -/
theorem owned_exec {i : Instr} {s t : State} (h : exec i s = .next t) : Owned .host s t := by
  have hframe := exec_frame h
  have htimers := exec_timers h
  have hkept := hframe.tx
  exact
    { cfg := hframe.cfg
      time := fun _ => hframe.time
      det := fun _ => hframe.det.imp_right fun hd => ⟨rfl, hd⟩
      mbox := fun _ => hframe.mbox
      eng := fun hm => absurd rfl hm
      ch := fun hm => absurd rfl hm
      cycle := fun _ => by rw [hkept]; exact ⟨rfl, rfl, rfl, rfl, rfl, rfl⟩
      phase := fun _ => htimers.transmit.imp_right fun hs => ⟨rfl, hs⟩
      virtualSink := fun hm => absurd rfl hm
      sticky := htimers.sticky
      line := fun _ => .inl (by rw [hkept])
      nextTick := fun _ => htimers.tick.imp_right fun hs => ⟨rfl, hs⟩
      captureFlags := fun hm => absurd rfl hm
      tickFlags := fun hm => absurd rfl hm
      txFlags := fun hm => absurd rfl hm
      fa := fun _ _ hm => absurd rfl hm
      port := fun _ hm => absurd rfl hm
      log := fun hm => absurd rfl hm
      resp := fun hm => absurd rfl hm }

theorem owned_host {s t : State} (h : hostStep s = .next t) : Owned .host s t := by
  rcases hostStep_next h with rfl | ⟨info, rfl⟩ | ⟨i, -, -, hi⟩
  · exact .refl _ t
  · exact { Owned.refl .host s with port := fun _ hm => absurd rfl hm, resp := fun hm => absurd rfl hm }
  · exact owned_exec hi

theorem owned_capture {s t : State} (h : captureStep s = .next t) : Owned .capture s t := by
  obtain ⟨hcfg, htime, hch, htx, hport, hresp⟩ := captureStep_frame h
  have hloops := captureStep_loops h
  exact
    { cfg := hcfg
      time := fun _ => htime
      det := fun hm => absurd rfl hm
      mbox := fun hm => absurd rfl hm
      eng := fun _ _ hm => absurd rfl hm
      ch := fun _ _ => hch
      cycle := fun _ => by rw [htx]; exact ⟨rfl, rfl, rfl, rfl, rfl, rfl⟩
      phase := fun _ => .inl (by rw [htx]; exact ⟨rfl, rfl⟩)
      virtualSink := fun _ => by rw [htx]
      sticky := by rw [htx]; exact id
      line := fun _ => .inl (by rw [htx])
      nextTick := fun _ => .inl (by rw [hloops])
      captureFlags := fun _ hm => absurd rfl hm
      tickFlags := fun _ _ => by rw [hloops]; exact ⟨rfl, rfl⟩
      txFlags := fun _ _ => by rw [hloops]; exact ⟨rfl, rfl⟩
      fa := fun _ hm => absurd rfl hm
      port := fun _ _ => hport
      log := fun _ hm => absurd rfl hm
      resp := fun _ => hresp }

theorem owned_ticker {s t : State} (h : tickStep s = .next t) : Owned .ticker s t := by
  rw [tickStep_frame h]
  exact
    { Owned.refl .ticker s with
      eng := fun _ hm => absurd rfl hm
      ch := fun _ hm => absurd rfl hm
      nextTick := fun hm => absurd rfl hm
      tickFlags := fun _ hm => absurd rfl hm }

theorem owned_tx {s t : State} (h : txStep s = .next t) : Owned .tx s t := by
  obtain ⟨hframe, hloops, -⟩ := txStep_frame h
  have hvirtual := txStep_virtualSink h
  rw [hframe, hloops]
  exact
    { Owned.refl .tx s with
      cycle := fun hm => absurd rfl hm
      phase := fun hm => absurd rfl hm
      virtualSink := fun _ => hvirtual
      sticky := fun hs => hvirtual.trans hs
      line := fun hm => absurd rfl hm
      txFlags := fun _ hm => absurd rfl hm
      log := fun _ _ hm => absurd rfl hm }

/-- Every step that is no reset writes what its move owns. -/
theorem step_owned {s t : State} (h : step s = .next t) (hm : s.nextMove ≠ .reset) : Owned s.nextMove s t := by
  rcases step_cases h with ⟨e, -⟩ | ⟨d, e, k⟩ | ⟨w, e, rfl⟩ | ⟨e, k⟩ | ⟨x, e, rfl⟩ | ⟨it, e, rfl⟩ | ⟨k, e, rfl⟩ |
    ⟨e, k⟩ | ⟨e, k⟩ | ⟨e, k⟩ | ⟨b, e, rfl⟩
  case inl => exact absurd e hm
  all_goals
    rw [e]
    refine Owned.of_takeMove ?_
  · exact owned_time k
  · exact owned_word w _
  · exact owned_host k
  · exact owned_sample x _
  · exact .of_env _ _ _
  · exact .of_env _ _ _
  · exact owned_capture k
  · exact owned_ticker k
  · exact owned_tx k
  · exact owned_lineNoise b _

end Sys2Proof.Machine

namespace Sys2Proof.Proofs
open Sys2Proof.Machine

/-- Settles O19: the clauses are the fields of `Owned`, which every move's own lemma proves. -/
theorem agentsOwnTheirRegisters : Obligations.AgentsOwnTheirRegisters := by
  intro s t h hm
  have o := step_owned h hm
  exact ⟨o.cfg, o.time, o.det, o.mbox, o.eng, o.ch, o.cycle, o.phase, o.virtualSink, o.sticky, o.line, o.nextTick,
    o.captureFlags, o.tickFlags, o.txFlags, o.fa, o.port, o.log, o.resp⟩

end Sys2Proof.Proofs

namespace Sys2Proof.Machine

/-! ## TIME -/

/-- What `beforeDeadlines` allows (44_orchestrator.md R308). -/
theorem beforeDeadlines_iff {s : State} {t : Nat} : beforeDeadlines s t = true ↔
    (s.loops.runTick = true → t ≤ s.loops.nextTick.toNat + s.cfg.tickJitterUs) ∧
      (s.loops.runTx = true → t ≤ txDue s) := by
  unfold beforeDeadlines
  cases s.loops.runTick <;> cases s.loops.runTx <;> simp

/-- With the ticker and the transmit loop stopped no deadline binds. -/
theorem beforeDeadlines_of_stopped {s : State} (t : Nat) (hk : s.loops.runTick = false) (hx : s.loops.runTx = false) :
    beforeDeadlines s t = true := by
  simp [beforeDeadlines_iff, hk, hx]

end Sys2Proof.Machine

namespace Sys2Proof.Proofs
open Sys2Proof.Machine

/-- Settles O21: only the move `time` writes TIME (`step_owned`), and its three outcomes are `advanceTime_cases`. -/
theorem timeAdvances : Obligations.TimeAdvances := by
  constructor
  · intro s t h hm
    by_cases hmove : ∃ d, s.nextMove = .time d
    · obtain ⟨d, e⟩ := hmove
      have k : advanceTime d s.takeMove = .next t := by simpa [step, e, perform] using h
      rcases advanceTime_cases d s.takeMove with ⟨-, c⟩ | ⟨-, -, c⟩ | ⟨hb, hlt, c, hsum⟩ <;> rw [c] at k
      · cases k
        exact ⟨le_rfl, fun hne => absurd rfl hne⟩
      · cases k
      · cases k
        obtain ⟨htick, htx⟩ := beforeDeadlines_iff.1 hb
        have hsum' : (later s.time d).toNat = s.time.toNat + d := hsum
        refine ⟨show s.time.toNat ≤ (later s.time d).toNat by omega, fun _ => ⟨d, e, rfl, hsum, ?_, ?_, ?_⟩⟩
        · exact hsum.trans_lt hlt
        · exact fun hr => hsum.trans_le (htick hr)
        · exact fun hr => hsum.trans_le (htx hr)
    · have htime : t.time = s.time := (step_owned h hm).time fun d e => hmove ⟨d, e⟩
      exact ⟨by rw [htime], fun hne => absurd htime hne⟩
  · intro s d e hlarge hk hx
    have hb : beforeDeadlines s.takeMove (s.takeMove.time.toNat + d) = true := beforeDeadlines_of_stopped _ hk hx
    rcases advanceTime_cases d s.takeMove with ⟨hb', -⟩ | ⟨-, -, c⟩ | ⟨-, hlt, -⟩
    · exact Bool.noConfusion (hb.symm.trans hb')
    · simpa [step, e, perform] using c
    · exact absurd hlt (by simpa using hlarge)

end Sys2Proof.Proofs
end

section
/-! PROOFS. Every step keeps the invariants of the registers (`Legal`, Safety.lean). A move writes a few registers, so
each lemma gives only the fields of `Legal` that read those and takes the others from the state before. -/

namespace Sys2Proof.Machine

/-! ## Times that do not wrap (45_arithmetic_and_sequencing.md R310) -/

theorem later_toNat {t : Time} {n : Nat} (h : t.toNat + n < 2 ^ 64) : (later t n).toNat = t.toNat + n :=
  (BitVec.toNat_ofNat _ _).trans (Nat.mod_eq_of_lt h)

/-- A transmit period is at most a second (43_transport.md R275). -/
theorem periodUs_le (c : Cfg) : periodUs c ≤ 1000000 := Nat.div_le_self _ _

/-! ## Registers written alone -/

/-- The engine's part of `Legal` (10_state.md R29, R31, R36, R37). -/
structure EngineOk (c : Cfg) (e : Engine) : Prop where
  preset_lt : e.preset.toNat < c.presetTable.length
  envelope_le : e.envelope.toNat ≤ 65536
  bpm_pos : e.bpm ≠ 0
  ranges_fit : rangesFit c.universeSize e.addr = true

section Writes
variable {s : State} (h : Legal s)
include h

theorem Legal.engineOk : EngineOk s.cfg s.eng := ⟨h.preset_lt, h.envelope_le, h.bpm_pos, h.ranges_fit⟩

theorem Legal.channelsOk : ChannelsOk s := ⟨h.ch_wf, h.ch_within⟩

/-- Of the environment `Legal` reads only SINK_OK's answer for the present cycle. -/
theorem Legal.withEnv {e : Environment} (he : State.sinkOk { s with env := e } = s.sinkOk) :
    Legal { s with env := e } :=
  { h with
    line_break := fun hp hk => h.line_break hp (he.symm.trans hk)
    line_mark := fun hp hk => h.line_mark hp (he.symm.trans hk) }

theorem Legal.withEngine {e : Engine} (he : EngineOk s.cfg e) : Legal { s with eng := e } :=
  { h with
    preset_lt := he.preset_lt
    envelope_le := he.envelope_le
    bpm_pos := he.bpm_pos
    ranges_fit := he.ranges_fit }

theorem Legal.withChannels {m : Memory} (hm : Memory.wf m = true) (hw : Memory.within s.n m = true) :
    Legal { s with ch := m } :=
  { h with ch_wf := hm, ch_within := hw }

/-- The end of a command empties the port (60_exceptions.md R334). -/
theorem Legal.respond (ws : List Word) : Legal (s.respond ws) := { h with port_fits := rfl }

theorem Legal.takeMove : Legal s.takeMove := h.withEnv rfl

/-- An operation of the engine that keeps its registers and the channels legal. -/
theorem Legal.of_render {t : State} (f : RenderFrame s t) (he : EngineOk s.cfg t.eng) (hc : ChannelsOk t) :
    Legal t := by
  obtain ⟨hwf, hwithin⟩ := hc
  rw [f.n] at hwithin
  have hsink := f.sinkOk
  rw [f.state] at hsink ⊢
  exact ((h.withEngine he).withChannels hwf hwithin).withEnv hsink

end Writes

/-! ## The engine's operations -/

/-- A beat leaves the preset, the tempo and the addresses, and the envelope is kept or filled. -/
theorem beatProc_engineOk {s : State} (h : EngineOk s.cfg s.eng) (d : Descriptor) (ts : Time) :
    EngineOk s.cfg (beatProc d ts s).eng := by
  obtain ⟨hpreset, -, -, haddr, hbpm, -⟩ := beatProc_eng d ts s
  refine ⟨hpreset ▸ h.preset_lt, ?_, hbpm ▸ h.bpm_pos, haddr ▸ h.ranges_fit⟩
  rcases beatProc_envelope d ts s with he | he <;> rw [he]
  · exact h.envelope_le
  · decide

theorem tryBeat_engineOk {s : State} (h : EngineOk s.cfg s.eng) (d : Descriptor) (ts : Time) :
    EngineOk s.cfg (tryBeat d ts s).2.eng := by
  rcases tryBeat_cases d ts s with ⟨-, e⟩ | ⟨-, -, e⟩ <;> rw [e]
  · exact h
  · exact beatProc_engineOk h d ts

theorem synthesize_engineOk {s : State} (h : EngineOk s.cfg s.eng) (d : Descriptor) (now : Time) :
    EngineOk s.cfg (synthesize d now s).2.eng := by
  rcases synthesize_cases d now s with e | ⟨-, -, -, e⟩ <;> rw [e]
  · exact h
  · exact beatProc_engineOk h d now

/-- The decay only lowers the envelope (42_engine_render.md R230). -/
theorem decayed_le {e : BitVec 17} (h : e.toNat ≤ 65536) : (decayed e).toNat ≤ 65536 := by
  have hmod := Nat.mod_le (e.toNat * 17 / 20) (2 ^ 17)
  have hval : (decayed e).toNat = e.toNat * 17 / 20 % 2 ^ 17 := BitVec.toNat_ofNat _ _
  omega

theorem paint_engineOk {s : State} (h : EngineOk s.cfg s.eng) (d : Descriptor) (now : Time) :
    EngineOk s.cfg (paint d now s).eng := by
  rw [paint_eq]
  refine { h with envelope_le := ?_ }
  dsimp only
  split
  · exact decayed_le h.envelope_le
  · exact h.envelope_le

theorem updateWith_engineOk {s : State} (h : EngineOk s.cfg s.eng) (d : Descriptor) (now : Time) :
    EngineOk s.cfg (updateWith d now s).2.eng := by
  have hcfg := (synthesize_frame d now s).1.cfg
  have hbeat := synthesize_engineOk h d now
  rw [← hcfg] at hbeat ⊢
  have htick : EngineOk (noteTick now (synthesize d now s).2).cfg (noteTick now (synthesize d now s).2).eng :=
    { hbeat with }
  exact paint_engineOk htick d now

theorem tryBeat_legal {s : State} (h : Legal s) (d : Descriptor) (ts : Time) : Legal (tryBeat d ts s).2 := by
  obtain ⟨hframe, hch⟩ := tryBeat_frame d ts s
  refine h.of_render hframe (tryBeat_engineOk h.engineOk d ts) ?_
  unfold ChannelsOk
  rw [hframe.n, hch]
  exact h.channelsOk

theorem onBeat_legal {s : State} (h : Legal s) {ts : Time} {p : Bool × State} (hp : onBeat ts s = .ok p) :
    Legal p.2 := by
  rcases onBeat_ok hp with rfl | ⟨d, -, -, rfl⟩
  · exact h
  · exact tryBeat_legal h d ts

theorem trigger_legal {s : State} (h : Legal s) {ts : Time} {p : Bool × State} (hp : trigger ts s = .ok p) :
    Legal p.2 := by
  obtain ⟨d, -, rfl⟩ := trigger_ok hp
  exact tryBeat_legal h d ts

theorem updateWith_legal {s : State} (h : Legal s) (d : Descriptor) (now : Time) : Legal (updateWith d now s).2 :=
  h.of_render (updateWith_frame d now s) (updateWith_engineOk h.engineOk d now)
    (updateWith_channelsOk h.ranges_fit h.channelsOk)

/-! ## START and STOP -/

/-- The life-cycle states of the three loops, as implications (44_orchestrator.md R307). -/
theorem flagsOk_iff {l : Loops} : flagsOk l = true ↔
    (l.stopCapture = true → l.runCapture = true) ∧ (l.stopTick = true → l.runTick = true) ∧
      (l.stopTx = true → l.runTx = true) := by
  have loop : ∀ run stop : Bool, (loopState? run stop).isSome = true ↔ (stop = true → run = true) := by decide
  rw [flagsOk, Bool.and_eq_true, Bool.and_eq_true, loop, loop, loop, and_assoc]

theorem askDevices_legal {s : State} (h : Legal s) (mask : BitVec 3) : Legal (askDevices mask s) := by
  obtain ⟨hframe, -, -, hsink⟩ := askDevices_frame mask s
  rw [hframe] at hsink ⊢
  exact h.withEnv hsink

/-- The fall back meets a stopped transmit loop, which is in no cycle (43_transport.md R285, R286). -/
theorem degrade_legal {s : State} (h : Legal s) (hstopped : s.loops.runTx = false) : Legal (degrade s) :=
  { h with virtual_top := fun _ => by rw [degrade_tx, h.tx_stopped hstopped]; rfl }

theorem startCapture_legal {s : State} (h : Legal s) (aOk : Bool) : Legal (startCapture aOk s) := by
  obtain ⟨-, htick, htx⟩ := flagsOk_iff.1 h.flags_ok
  unfold startCapture
  split
  · exact { h with flags_ok := flagsOk_iff.2 ⟨Bool.noConfusion, htick, htx⟩ }
  · split
    · exact { h with
        event_running := fun _ => rfl
        flags_ok := flagsOk_iff.2 ⟨Bool.noConfusion, htick, htx⟩
        fa_cnt := ⟨Nat.zero_le _, (Nat.zero_le _).trans_lt h.fa_cnt.2⟩ }
    · exact h

/-- A ticker that starts is due at once (44_orchestrator.md R303). -/
theorem startTick_legal {s : State} (h : Legal s) : Legal (startTick s) := by
  obtain ⟨hcapture, -, htx⟩ := flagsOk_iff.1 h.flags_ok
  unfold startTick
  split
  · exact { h with flags_ok := flagsOk_iff.2 ⟨hcapture, Bool.noConfusion, htx⟩ }
  · exact { h with
      flags_ok := flagsOk_iff.2 ⟨hcapture, Bool.noConfusion, htx⟩
      next_tick_le := Nat.le_add_right _ _
      tick_deadline := fun _ => Nat.le_add_right _ _ }

/-- A transmit loop that starts is at TOP, as it was when it stopped, and due at once (44_orchestrator.md R303). -/
theorem startTx_legal {s : State} (h : Legal s) : Legal (startTx s) := by
  obtain ⟨hcapture, htick, -⟩ := flagsOk_iff.1 h.flags_ok
  unfold startTx
  split
  · exact { h with
      flags_ok := flagsOk_iff.2 ⟨hcapture, htick, Bool.noConfusion⟩ }
  · rename_i hrun
    have hline : s.tx.line = true := h.line_idle (by rw [h.tx_stopped (by simpa using hrun)]; rfl)
    exact { h with
      line_idle := fun _ => hline
      line_break := Phase.noConfusion
      line_mark := Phase.noConfusion
      tx_stopped := fun _ => rfl
      virtual_top := fun _ => rfl
      flags_ok := flagsOk_iff.2 ⟨hcapture, htick, Bool.noConfusion⟩
      next_start_le := Nat.le_add_right _ _
      tx_deadline := fun _ => le_rfl }

theorem startLoops_legal {s : State} (h : Legal s) (mask : BitVec 3) (aOk : Bool) : Legal (startLoops mask aOk s) := by
  have hcapture : Legal (if namesCapture mask then startCapture aOk s else s) := by
    split
    · exact startCapture_legal h aOk
    · exact h
  have htick : ∀ u, Legal u → Legal (if namesTick mask then startTick u else u) := by
    intro u hu
    split
    · exact startTick_legal hu
    · exact hu
  have htx : ∀ u, Legal u → Legal (if namesTx mask then startTx u else u) := by
    intro u hu
    split
    · exact startTx_legal hu
    · exact hu
  exact htx _ (htick _ hcapture)

theorem startResult_legal {s : State} (h : Legal s) (mask : BitVec 3) : Legal (startResult mask s) := by
  have hasked := askDevices_legal h mask
  rcases startResult_cases mask s with ⟨-, -, e⟩ | ⟨u, v, hu, rfl, e⟩
  · rw [e]
    exact hasked.respond _
  · have hlegal : Legal u := by
      rcases hu with ⟨-, rfl⟩ | ⟨hserial, -, rfl⟩
      · exact hasked
      · refine degrade_legal hasked ?_
        rw [(askDevices_frame mask s).1]
        exact (not_virtual_of_serial_failure hserial).2.1
    have hstarted := startLoops_legal hlegal mask (audioOk mask s)
    rcases e with ⟨-, e⟩ | ⟨-, e⟩ <;> rw [e] <;> exact hstarted.respond _

/-- A stop is requested only of a loop that runs (44_orchestrator.md R306). -/
theorem requestStop_flagsOk {l : Loops} (h : flagsOk l = true) (mask : BitVec 3) :
    flagsOk (requestStop mask l) = true := by
  rw [flagsOk_iff] at h ⊢
  obtain ⟨hcapture, htick, htx⟩ := h
  have request : ∀ {stop run named : Bool}, (stop = true → run = true) →
      ((stop || (named && run)) = true → run = true) := by decide
  exact ⟨request hcapture, request htick, request htx⟩

/-! ## The commands -/

/-- A register of 10 bits holds every address a fixture may have (10_state.md R36). -/
theorem setAddress_fits {n : Nat} {a : PerFixture (BitVec 10)} {f : Fixture} {addr : BitVec 12} (hn : n ≤ 512)
    (ha : rangesFit n a = true) (hf : rangeFits n f addr.toNat = true) :
    rangesFit n (PerFixture.set a f (addr.setWidth 10)) = true := by
  have hwidth : 3 ≤ f.width := by cases f <;> decide
  have hbound : addr.toNat < 2 ^ 10 := by
    simp only [rangeFits, Bool.and_eq_true, decide_eq_true_eq] at hf
    omega
  have hset : (addr.setWidth 10).toNat = addr.toNat := by
    rw [BitVec.toNat_setWidth]
    exact Nat.mod_eq_of_lt hbound
  simp only [rangesFit, Bool.and_eq_true] at ha ⊢
  obtain ⟨⟨hA, hB⟩, hbar⟩ := ha
  cases f with
  | panelA => exact ⟨⟨by rw [← hset] at hf; exact hf, hB⟩, hbar⟩
  | panelB => exact ⟨⟨hA, by rw [← hset] at hf; exact hf⟩, hbar⟩
  | bar => exact ⟨⟨hA, hB⟩, by rw [← hset] at hf; exact hf⟩

/-- Every command keeps the invariants. That the channels stay canonical is `exec_channelsOk`, for all commands. -/
theorem exec_legal {i : Instr} {s t : State} (h : Legal s) (he : exec i s = .next t) : Legal t := by
  have hch : ChannelsOk t := exec_channelsOk h.channelsOk he
  cases i with
  | setChannel idx val =>
    simp only [exec, execSetChannel, raise] at he
    split at he
    · cases he; exact h.respond _
    · split at he
      · cases he; exact h.respond _
      · cases he; exact (h.withChannels hch.1 hch.2).respond _
  | setChannels pairs =>
    simp only [exec, execSetChannels, raise] at he
    split at he
    · cases he; exact h.respond _
    · cases he; exact (h.withChannels hch.1 hch.2).respond _
  | getChannel idx =>
    simp only [exec, execGetChannel, raise] at he
    split at he <;> cases he <;> exact h.respond _
  | blackout => cases he; exact (h.withChannels hch.1 hch.2).respond _
  | setAll val =>
    simp only [exec, execSetAll, raise] at he
    split at he
    · cases he; exact h.respond _
    · cases he; exact (h.withChannels hch.1 hch.2).respond _
  | setPreset id =>
    simp only [exec, execSetPreset, raise] at he
    split at he
    · cases he; exact h.respond _
    · rename_i d hd
      cases he
      have hid : id.toNat < s.cfg.presetTable.length := (List.getElem?_eq_some_iff.1 hd).1
      have heng : EngineOk s.cfg { s.eng with
          preset := id, base := d.base, envelope := 65536, toggle := false, rot := 0, beatCount := 0 } :=
        { h.engineOk with
          preset_lt := hid
          envelope_le := show (65536 : BitVec 17).toNat ≤ 65536 by decide }
      exact (h.withEngine heng).respond _
  | setAudioReactive en =>
    cases he
    have heng : EngineOk s.cfg { s.eng with audioReactive := en } := { h.engineOk with }
    exact (h.withEngine heng).respond _
  | setAddress fix addr =>
    simp only [exec, execSetAddress, raise] at he
    split at he
    · cases he; exact h.respond _
    · split at he
      · rename_i f _ hf
        cases he
        have heng : EngineOk s.cfg { s.eng with addr := PerFixture.set s.eng.addr f (addr.setWidth 10) } :=
          { h.engineOk with ranges_fit := setAddress_fits h.cfg_wf.universe_size.2 h.ranges_fit hf }
        exact (h.withEngine heng).respond _
      · cases he; exact h.respond _
  | getStatus => cases he; exact h.respond _
  | setBpm bpm =>
    simp only [exec, execSetBpm, raise] at he
    split at he
    · cases he; exact h.respond _
    · rename_i hbpm
      cases he
      have heng : EngineOk s.cfg { s.eng with bpm := bpm } := { h.engineOk with bpm_pos := hbpm }
      exact (h.withEngine heng).respond _
  | beat ts =>
    obtain ⟨p, hp, rfl⟩ := answerProcessed_next he
    exact (onBeat_legal h hp).respond _
  | trigger ts =>
    obtain ⟨p, hp, rfl⟩ := answerProcessed_next he
    exact (trigger_legal h hp).respond _
  | update now =>
    obtain ⟨p, hp, rfl⟩ := answerProcessed_next he
    obtain ⟨d, -, rfl⟩ := updateOp_ok hp
    exact (updateWith_legal h d now).respond _
  | getVolume => cases he; exact h.respond _
  | start mask => cases he; exact startResult_legal h mask
  | stop mask =>
    cases he
    have hstop : Legal { s with loops := requestStop mask s.loops } :=
      { h with flags_ok := requestStop_flagsOk h.flags_ok mask }
    exact hstop.respond _

theorem hostStep_legal {s t : State} (h : Legal s) (hs : hostStep s = .next t) : Legal t := by
  rcases hostStep_next hs with rfl | ⟨info, rfl⟩ | ⟨i, -, -, he⟩
  · exact h
  · exact h.respond _
  · exact exec_legal h he

end Sys2Proof.Machine
end

section
/-! PROOFS. The agents' own steps keep the invariants: the ticker, the capture loop, the transmit loop
(40_beat_detector.md R157, 43_transport.md R276, 44_orchestrator.md R305). -/

namespace Sys2Proof.Machine

/-! ## The ticker -/

/-- A tick moves the next one by a period: from a time that is due, so at most a period ahead and no deadline nearer
(44_orchestrator.md R305). -/
theorem advanceTick_legal {s : State} (h : Legal s) (hdue : s.loops.nextTick.toNat ≤ s.time.toNat) :
    Legal (advanceTick s) := by
  have htime := h.time_premise
  have hnext : (later s.loops.nextTick tickUs).toNat = s.loops.nextTick.toNat + tickUs :=
    later_toNat (by simp only [tickUs]; omega)
  unfold advanceTick
  generalize later s.loops.nextTick tickUs = next at hnext
  have hbound : next.toNat ≤ s.time.toNat + tickUs := by omega
  have hdeadline : s.loops.runTick = true → s.time.toNat ≤ next.toNat + s.cfg.tickJitterUs := fun hr => by
    have := h.tick_deadline hr
    omega
  exact { h with next_tick_le := hbound, tick_deadline := hdeadline }

theorem tickStop_legal {s : State} (h : Legal s) : Legal (tickStop s) := by
  obtain ⟨hcapture, -, htx⟩ := flagsOk_iff.1 h.flags_ok
  exact { h with
    flags_ok := flagsOk_iff.2 ⟨hcapture, Bool.noConfusion, htx⟩
    tick_deadline := Bool.noConfusion }

theorem tickStep_legal {s t : State} (h : Legal s) (hs : tickStep s = .next t) : Legal t := by
  rcases tickStep_next hs with ⟨-, rfl⟩ | ⟨-, -, rfl⟩ | ⟨henabled, -, d, -, rfl⟩
  · exact h
  · exact tickStop_legal h
  · have hframe := updateWith_frame d s.time s
    refine advanceTick_legal (updateWith_legal h d s.time) ?_
    rw [hframe.loops, hframe.time]
    simp only [tickEnabled, Bool.and_eq_true, decide_eq_true_eq] at henabled
    exact henabled.2

/-! ## The capture agent -/

/-- The detector's part of `Legal` (10_state.md R23, R24, R26). -/
structure DetectorOk (c : Cfg) (d : Detector) : Prop where
  vol_le : d.vol.toNat ≤ 32768
  spec_len : d.prevSpec.length = (band c).length
  hist_len : d.hist.length ≤ c.histLen

theorem Legal.detectorOk {s : State} (h : Legal s) : DetectorOk s.cfg s.det := ⟨h.vol_le, h.spec_len, h.hist_len⟩

/-- The history never outgrows HIST_LEN (40_beat_detector.md R146). -/
theorem pushHistory_length_le {c : Cfg} {l : List (BitVec 48)} (hl : l.length ≤ c.histLen) (sig : Nat) :
    (pushHistory c l sig).length ≤ c.histLen := by
  unfold pushHistory
  dsimp only
  split
  · rw [List.length_tail, List.length_append, List.length_singleton]
    omega
  · rename_i hfits
    exact Nat.not_lt.1 hfits

/-- The spectrum kept for the next frame has one entry per bin of BAND, new or old (40_beat_detector.md R144, R145). -/
theorem signal_spec_length {c : Cfg} {d : Detector} (hd : d.prevSpec.length = (band c).length) (m : List Magnitude) :
    (signal c m d).2.prevSpec.length = (band c).length := by
  unfold signal
  split
  · exact List.length_map _
  · exact hd

theorem processFrame_detectorOk {c : Cfg} {d : Detector} (hd : DetectorOk c d) (m : List Magnitude)
    (frame : List Sample) (tCap : Time) : DetectorOk c (processFrame c m frame tCap d).1 := by
  obtain ⟨-, hvol, hhist, hspec, -⟩ := processFrame_always c m frame tCap d
  refine ⟨?_, hspec ▸ signal_spec_length hd.spec_len m, hhist ▸ pushHistory_length_le hd.hist_len _⟩
  rw [hvol]
  exact (Nat.mod_le _ _).trans (peakLevel_le frame)

/-- A stored beat needs the capture loop, which is the agent that stores it (40_beat_detector.md R157). -/
theorem storeResult_legal {s : State} (h : Legal s) (hrun : s.loops.runCapture = true) {r : Detector × Option Time}
    (hr : DetectorOk s.cfg r.1) : Legal (storeResult r s) := by
  unfold storeResult
  split <;>
    exact { h with
      vol_le := hr.vol_le
      spec_len := hr.spec_len
      hist_len := hr.hist_len
      event_running := fun _ => hrun }

theorem pushFrame_legal {s : State} (h : Legal s) (hrun : s.loops.runCapture = true) (frame : List Sample)
    (tCap : Time) : Legal (pushFrame frame tCap s) := by
  unfold pushFrame
  split
  · exact storeResult_legal h hrun (processFrame_detectorOk h.detectorOk _ frame tCap)
  · exact h

/-- The capture loop ends only with an empty mailbox (40_beat_detector.md R157, R160). -/
theorem endCapture_legal {s : State} (h : Legal s) (hv : s.mbox.valid = false) : Legal (endCapture s) := by
  obtain ⟨-, htick, htx⟩ := flagsOk_iff.1 h.flags_ok
  exact { h with
    event_running := fun hvalid => Bool.noConfusion (hv.symm.trans hvalid)
    flags_ok := flagsOk_iff.2 ⟨Bool.noConfusion, htick, htx⟩ }

theorem captureStop_legal {s : State} (h : Legal s) (hv : s.mbox.valid = false) : Legal (captureStop s) := by
  have hdropped : Legal { s with fa := { s.fa with cnt := 0 } } :=
    { h with fa_cnt := ⟨Nat.zero_le _, (Nat.zero_le _).trans_lt h.fa_cnt.2⟩ }
  exact endCapture_legal hdropped hv

theorem readFail_legal {s : State} (h : Legal s) (hv : s.mbox.valid = false) : Legal (readFail s) := by
  have hcounted (l : List LogRecord) (k : BitVec 8) :
      Legal { s with det := { s.det with failCnt := k }, log := l } := { h with }
  unfold readFail
  dsimp only
  split
  · exact endCapture_legal (hcounted _ _) hv
  · exact hcounted _ _

theorem captureStep_legal {s t : State} (h : Legal s) (hs : captureStep s = .next t) : Legal t := by
  rcases captureStep_next hs with ⟨-, p, hp, rfl⟩ | ⟨-, rfl⟩ | ⟨hv, -, -, rfl⟩ | ⟨hv, hrun, -, it, -, rfl⟩
  · exact { onBeat_legal h hp with event_running := Bool.noConfusion }
  · exact h
  · exact captureStop_legal h hv
  · have hpopped : Legal (popAudio s) := h.withEnv rfl
    cases it with
    | frame tCap frame => exact pushFrame_legal hpopped hrun frame tCap
    | fail => exact readFail_legal hpopped hv

/-! ## The transmit loop -/

/-- The step of the transmit loop is due and the loop runs; at TOP it may be late (43_transport.md R276). -/
theorem txEnabled_iff {s : State} : txEnabled s = true ↔
    s.loops.runTx = true ∧
      if atTop s.tx.phase = true then txDue s ≤ s.time.toNat else s.time.toNat = txDue s := by
  unfold txEnabled
  cases atTop s.tx.phase <;> simp

theorem snapshot_length (s : State) : (snapshot s).length = s.n + 1 := by simp [snapshot]

theorem txStop_legal {s : State} (h : Legal s) (hline : s.tx.line = true) : Legal (txStop s) := by
  obtain ⟨hcapture, htick, -⟩ := flagsOk_iff.1 h.flags_ok
  exact { h with
    line_idle := fun _ => hline
    line_break := Phase.noConfusion
    line_mark := Phase.noConfusion
    tx_stopped := fun _ => rfl
    virtual_top := fun _ => rfl
    flags_ok := flagsOk_iff.2 ⟨hcapture, htick, Bool.noConfusion⟩
    tx_deadline := Bool.noConfusion }

/-- With the virtual sink the loop sleeps a period and stays outside any cycle (43_transport.md R285). -/
theorem txTopVirtual_legal {s : State} (h : Legal s) (hrun : s.loops.runTx = true) (hline : s.tx.line = true) :
    Legal (txTopVirtual s) := by
  have htime := h.time_premise
  have hperiod := periodUs_le s.cfg
  have hnext : (later s.time (periodUs s.cfg)).toNat = s.time.toNat + periodUs s.cfg := later_toNat (by omega)
  exact { h with
    line_idle := fun _ => hline
    line_break := Phase.noConfusion
    line_mark := Phase.noConfusion
    tx_stopped := fun hr => Bool.noConfusion (hrun.symm.trans hr)
    virtual_top := fun _ => rfl
    cycle_le := le_rfl
    next_start_le := hnext.le.trans (Nat.add_le_add_left (le_max_left _ _) _)
    tx_deadline := fun _ => (Nat.le_add_right _ _).trans hnext.ge }

/-- A cycle begins with the line at 0, unless its write will fail (43_transport.md R277, R282). -/
theorem txTopBreak_legal {s : State} (h : Legal s) (hrun : s.loops.runTx = true) (hv : s.tx.virtualSink = false) :
    Legal (txTopBreak s) :=
  { h with
    line_idle := Bool.noConfusion
    line_break := fun _ hok => by
      have hok' : s.sinkOk = true := hok
      simp [txTopBreak, driven, hok']
    line_mark := Phase.noConfusion
    tx_stopped := fun hr => Bool.noConfusion (hrun.symm.trans hr)
    virtual_top := fun hvirtual => Bool.noConfusion (hv.symm.trans hvirtual)
    cycle_le := le_rfl
    tx_deadline := fun _ => Nat.le_add_right _ _ }

theorem txTop_legal {s : State} (h : Legal s) (hrun : s.loops.runTx = true) (htop : atTop s.tx.phase = true) :
    Legal (txTop s) := by
  have hline := h.line_idle htop
  unfold txTop
  split
  · exact txStop_legal h hline
  · split
    · exact txTopVirtual_legal h hrun hline
    · rename_i hv
      exact txTopBreak_legal h hrun (Bool.not_eq_true _ ▸ hv)

/-- The mark begins with the line at 1, unless the cycle's write will fail (43_transport.md R278, R282). -/
theorem txBreak_legal {s : State} (h : Legal s) (hphase : s.tx.phase = .breakLow) (hrun : s.loops.runTx = true)
    (hdue : s.time.toNat = txDue s) : Legal (txBreak s) := by
  have hnotTop : s.tx.virtualSink = true → False := fun hv => by simpa [hphase, atTop] using h.virtual_top hv
  have hdue' : s.time.toNat = s.tx.cycleStart.toNat + lowUs s.cfg := by simpa [txDue, hphase] using hdue
  exact { h with
    line_idle := Bool.noConfusion
    line_break := Phase.noConfusion
    line_mark := fun _ hok => by
      have hok' : s.sinkOk = true := hok
      simp [txBreak, driven, hok']
    tx_stopped := fun hr => Bool.noConfusion (hrun.symm.trans hr)
    virtual_top := fun hv => (hnotTop hv).elim
    tx_deadline := fun _ => hdue'.le.trans (Nat.le_add_right _ _) }

/-- Past the mark SINK_OK's next answer is for a cycle to come. -/
theorem askedSink_legal {s : State} (h : Legal s) (hbreak : s.tx.phase ≠ .breakLow) (hmab : s.tx.phase ≠ .mab) :
    Legal s.askedSink :=
  { h with
    line_break := fun hp => absurd hp hbreak
    line_mark := fun hp => absurd hp hmab }

/-- The snapshot has the frame's shape, and its first bit is due at once (43_transport.md R276, R279). -/
theorem txSnapshot_legal {s : State} (h : Legal s) (hphase : s.tx.phase = .mab) (hrun : s.loops.runTx = true)
    (hdue : s.time.toNat = txDue s) : Legal (txSnapshot s) := by
  have hnotTop : s.tx.virtualSink = true → False := fun hv => by simpa [hphase, atTop] using h.virtual_top hv
  have hdue' : s.time.toNat = dataStart s := by simpa [txDue, hphase] using hdue
  exact { h with
    snap_len := snapshot_length s
    snap_zero := rfl
    slot_le := Nat.zero_le _
    bit_le := Nat.zero_le _
    line_idle := Bool.noConfusion
    line_break := Phase.noConfusion
    line_mark := Phase.noConfusion
    tx_stopped := fun hr => Bool.noConfusion (hrun.symm.trans hr)
    virtual_top := fun hv => (hnotTop hv).elim
    tx_deadline := fun _ => hdue'.le }

/-- A failed write pauses the loop with the line at 1; the pause fits T_NEXT_START (43_transport.md R282). -/
theorem txFail_legal {s : State} (h : Legal s) (hrun : s.loops.runTx = true) : Legal (txFail s) := by
  have htime := h.time_premise
  have hpause := h.pause_fits
  have hnext : (later s.time s.cfg.errPauseUs).toNat = s.time.toNat + s.cfg.errPauseUs := later_toNat (by omega)
  exact { h with
    line_idle := fun _ => rfl
    line_break := Phase.noConfusion
    line_mark := Phase.noConfusion
    tx_stopped := fun hr => Bool.noConfusion (hrun.symm.trans hr)
    virtual_top := fun _ => rfl
    next_start_le := hnext.le.trans (Nat.add_le_add_left (le_max_right _ _) _)
    tx_deadline := fun _ => (Nat.le_add_right _ _).trans hnext.ge }

theorem txMab_legal {s : State} (h : Legal s) (hphase : s.tx.phase = .mab) (hrun : s.loops.runTx = true)
    (hdue : s.time.toNat = txDue s) : Legal (txMab s) := by
  unfold txMab
  split
  · exact askedSink_legal (txSnapshot_legal h hphase hrun hdue) Phase.noConfusion Phase.noConfusion
  · exact askedSink_legal (txFail_legal h hrun) Phase.noConfusion Phase.noConfusion

/-- When the next bit, or the end of the slot, is due in phase DATA (43_transport.md R276). -/
theorem txDue_data {s : State} (hphase : s.tx.phase = .data) :
    txDue s = dataStart s + slotUs * s.tx.slot.toNat + bitUs * s.tx.bit := by
  simp only [txDue, hphase]

/-- Eleven bits make a slot (30_encoding.md R115). -/
theorem slotUs_eq : slotUs = bitUs * bitsPerSlot := by decide

theorem txBit_legal {s : State} (h : Legal s) (d : Byte) (hphase : s.tx.phase = .data)
    (hdue : s.time.toNat = txDue s) (hbit : s.tx.bit < bitsPerSlot) : Legal (txBit d s) := by
  have hnotTop : atTop s.tx.phase ≠ true := by simp [hphase, atTop]
  have hafter : txDue (txBit d s) = txDue s + bitUs := by
    rw [txDue_data (s := txBit d s) hphase, txDue_data hphase]
    exact (congrArg _ (Nat.mul_succ _ _)).trans (Nat.add_assoc _ _ _).symm
  exact { h with
    bit_le := hbit
    line_idle := fun htop => absurd htop hnotTop
    line_break := fun hp => absurd (hphase.symm.trans hp) Phase.noConfusion
    line_mark := fun hp => absurd (hphase.symm.trans hp) Phase.noConfusion
    tx_deadline := fun _ => (hdue.le.trans (Nat.le_add_right _ _)).trans hafter.ge }

/-- The next slot's first bit is due when the slot before ends (43_transport.md R276, R280). -/
theorem txNextSlot_legal {s : State} (h : Legal s) (hphase : s.tx.phase = .data) (hdue : s.time.toNat = txDue s)
    (hbit : s.tx.bit = bitsPerSlot) (hslot : s.tx.slot.toNat < s.n) : Legal (txNextSlot s) := by
  have hn : s.n ≤ 512 := h.cfg_wf.universe_size.2
  have hnext : (s.tx.slot + 1).toNat = s.tx.slot.toNat + 1 := by
    rw [BitVec.toNat_add]
    exact Nat.mod_eq_of_lt (show s.tx.slot.toNat + 1 < 2 ^ 10 by omega)
  have hafter : txDue (txNextSlot s) = txDue s := by
    rw [txDue_data (s := txNextSlot s) hphase, txDue_data hphase, hbit, txNextSlot_tx, ← slotUs_eq]
    show dataStart s + slotUs * (s.tx.slot + 1).toNat + bitUs * 0 = _
    rw [hnext, Nat.mul_succ, Nat.mul_zero, Nat.add_zero, Nat.add_assoc]
  exact { h with
    slot_le := show (s.tx.slot + 1).toNat ≤ s.n by omega
    bit_le := Nat.zero_le _
    tx_deadline := fun _ => hdue.le.trans hafter.ge }

/-- END's pacing sets T_NEXT_START between now and a period from now (43_transport.md R281). -/
theorem txPace_spec {s : State} (h : Legal s) : ∃ next log,
    txPace s = { s with tx := { s.tx with nextStart := next }, log := log } ∧
      s.time.toNat ≤ next.toNat ∧ next.toNat ≤ s.time.toNat + periodUs s.cfg := by
  have htime := h.time_premise
  have hcycle := h.cycle_le
  have hperiod := periodUs_le s.cfg
  unfold txPace
  split
  · exact ⟨s.time, _, rfl, le_rfl, Nat.le_add_right _ _⟩
  · rename_i hpace
    have hnext : (later s.tx.cycleStart (periodUs s.cfg)).toNat = s.tx.cycleStart.toNat + periodUs s.cfg :=
      later_toNat (by omega)
    simp only [elapsedUs, satSub] at hpace
    exact ⟨_, s.log, rfl, by omega, by omega⟩

/-- END: the snapshot becomes a frame, and the loop sleeps with the line at 1 (43_transport.md R280, R284). -/
theorem txEnd_legal {s : State} (h : Legal s) (hrun : s.loops.runTx = true) : Legal (txEnd s) := by
  obtain ⟨next, log, hpace, hge, hle⟩ := txPace_spec h
  have hframe : frameFits s.n { start := s.tx.cycleStart, bytes := s.tx.snap } := ⟨h.snap_len, h.snap_zero⟩
  have hframes : ∀ f ∈ s.tx.frames ++ [{ start := s.tx.cycleStart, bytes := s.tx.snap }], frameFits s.n f := by
    intro f hf
    rcases List.mem_append.1 hf with hf | hf
    · exact h.frames_fit f hf
    · exact List.mem_singleton.1 hf ▸ hframe
  unfold txEnd
  rw [hpace]
  exact { h with
    frames_fit := hframes
    line_idle := fun _ => rfl
    line_break := Phase.noConfusion
    line_mark := Phase.noConfusion
    tx_stopped := fun hr => Bool.noConfusion (hrun.symm.trans hr)
    virtual_top := fun _ => rfl
    next_start_le := hle.trans (Nat.add_le_add_left (le_max_left _ _) _)
    tx_deadline := fun _ => hge }

theorem txStep_legal {s t : State} (h : Legal s) (hs : txStep s = .next t) : Legal t := by
  rcases txStep_next hs with ⟨-, rfl⟩ | ⟨henabled, hcase⟩
  · exact h
  · obtain ⟨hrun, hdue⟩ := txEnabled_iff.1 henabled
    rcases hcase with ⟨htop, rfl⟩ | ⟨hphase, rfl⟩ | ⟨hphase, rfl⟩ | ⟨hphase, hdata⟩
    · exact txTop_legal h hrun htop
    · exact txBreak_legal h hphase hrun (by simpa [hphase, atTop] using hdue)
    · exact txMab_legal h hphase hrun (by simpa [hphase, atTop] using hdue)
    · have hexact : s.time.toNat = txDue s := by simpa [hphase, atTop] using hdue
      obtain ⟨d, -, ⟨hbit, rfl⟩ | ⟨hbit, hslot, rfl⟩ | ⟨-, -, rfl⟩⟩ := txData_next hdata
      · exact txBit_legal h d hphase hexact hbit
      · exact txNextSlot_legal h hphase hexact (le_antisymm h.bit_le hbit) hslot
      · exact txEnd_legal h hrun

end Sys2Proof.Machine
end

section
/-! PROOFS. The environment's moves keep the invariants, and with them every step does (44_orchestrator.md R302,
R308). -/

namespace Sys2Proof.Machine

/-! ## The environment's moves -/

/-- TIME stops at the deadlines, so no step becomes overdue (44_orchestrator.md R308). -/
theorem advanceTime_legal {d : Nat} {s t : State} (h : Legal s) (hs : advanceTime d s = .next t) : Legal t := by
  rcases advanceTime_cases d s with ⟨-, e⟩ | ⟨-, -, e⟩ | ⟨hb, hlt, e, hsum⟩ <;> rw [e] at hs
  · cases hs
    exact h
  · cases hs
  · cases hs
    obtain ⟨htick, htx⟩ := beforeDeadlines_iff.1 hb
    generalize later s.time d = now at hsum
    have hforward : s.time.toNat ≤ now.toNat := by omega
    exact { h with
      time_premise := hsum.trans_lt hlt
      cycle_le := h.cycle_le.trans hforward
      next_start_le := h.next_start_le.trans (Nat.add_le_add_right hforward _)
      next_tick_le := h.next_tick_le.trans (Nat.add_le_add_right hforward _)
      tx_deadline := fun hr => hsum.le.trans (htx hr)
      tick_deadline := fun hr => hsum.le.trans (htick hr) }

/-- The header's operand count fits the twelve bits of C_NEED (30_encoding.md R110). -/
theorem operandWords_lt (w : Word) : operandWords w < 2 ^ 12 := by
  unfold operandWords
  split
  · rename_i o _
    cases o
    case setChannels => exact (field 23 12 w).isLt
    all_goals simp [operandCount]
  · decide

/-- C_NEED counts down the operand words that the header asked for (10_state.md R47). -/
theorem receiveWord_legal {s : State} (h : Legal s) (w : Word) : Legal (s.receiveWord w) := by
  rcases receiveWord_cases s w with ⟨-, e⟩ | ⟨-, -, e⟩ | ⟨hbuf, hneed, e⟩ <;> rw [e]
  · have hheader : portFits { cBuf := [w], cNeed := BitVec.ofNat 12 (operandWords w) } := by
      show 0 + (BitVec.ofNat 12 (operandWords w)).toNat = operandWords w
      rw [Nat.zero_add, BitVec.toNat_ofNat, Nat.mod_eq_of_lt (operandWords_lt w)]
    exact { h with port_fits := hheader }
  · exact h
  · have hfits := h.port_fits
    have hpos : s.port.cNeed.toNat ≠ 0 := fun hz => hneed (BitVec.eq_of_toNat_eq hz)
    have hless : (s.port.cNeed - 1).toNat = s.port.cNeed.toNat - 1 := by bv_omega
    have hoperand : portFits { cBuf := s.port.cBuf ++ [w], cNeed := s.port.cNeed - 1 } := by
      cases hc : s.port.cBuf with
      | nil => exact absurd hc hbuf
      | cons header ops =>
        simp only [portFits, hc] at hfits
        simp only [portFits, List.cons_append, List.length_append, List.length_singleton, hless]
        omega
    exact { h with port_fits := hoperand }

/-- FA_CNT counts the samples of the unfinished frame (10_state.md R49). -/
theorem assemble_legal {s : State} (h : Legal s) (x : Sample) : Legal (assemble x s) := by
  obtain ⟨hcount, hbelow⟩ := h.fa_cnt
  have hsink : (assemble x s).sinkOk = s.sinkOk := by
    rw [assemble_frame]
    rfl
  have hassembler : (assemble x s).fa.cnt ≤ (assemble x s).fa.buf.length ∧
      (assemble x s).fa.cnt < s.cfg.frameLen := by
    unfold assemble
    dsimp only
    split
    · exact ⟨Nat.zero_le _, (Nat.zero_le _).trans_lt hbelow⟩
    · simp only [List.length_append, List.length_singleton, List.length_take_of_le hcount]
      omega
  rw [assemble_frame] at hsink ⊢
  exact Legal.withEnv (s := { s with fa := (assemble x s).fa }) { h with fa_cnt := hassembler } hsink

theorem lineNoise_legal {s : State} (h : Legal s) (b : Bool) : Legal (lineNoise b s) := by
  rcases lineNoise_cases b s with e | ⟨hfail, hphase, e⟩ <;> rw [e]
  · exact h
  · have hnotTop : atTop s.tx.phase ≠ true := by rcases hphase with hp | hp <;> simp [hp, atTop]
    exact { h with
      line_idle := fun htop => absurd htop hnotTop
      line_break := fun _ hok => Bool.noConfusion (hfail.symm.trans hok)
      line_mark := fun _ hok => Bool.noConfusion (hfail.symm.trans hok) }

end Sys2Proof.Machine

namespace Sys2Proof.Proofs
open Sys2Proof.Machine

/-- Settles O16: each of the eleven moves keeps the invariants, by the lemma of that move. -/
theorem stepKeepsLegal : Obligations.StepKeepsLegal := by
  intro s t h hs
  have hmove : Legal s.takeMove := h.takeMove
  rcases step_cases hs with ⟨-, rfl⟩ | ⟨d, -, k⟩ | ⟨w, -, rfl⟩ | ⟨-, k⟩ | ⟨x, -, rfl⟩ | ⟨it, -, rfl⟩ | ⟨k, -, rfl⟩ |
    ⟨-, k⟩ | ⟨-, k⟩ | ⟨-, k⟩ | ⟨b, -, rfl⟩
  · exact resetWith_legal _ h.cfg_wf h.pause_fits
  · exact advanceTime_legal hmove k
  · exact receiveWord_legal hmove w
  · exact hostStep_legal hmove k
  · exact assemble_legal hmove x
  · exact hmove.withEnv rfl
  · exact hmove.withEnv rfl
  · exact captureStep_legal hmove k
  · exact tickStep_legal hmove k
  · exact txStep_legal hmove k
  · exact lineNoise_legal hmove b

end Sys2Proof.Proofs
end

section
/-! PROOFS. From samples to beats: the frame assembler and PUSH_FRAME (10_state.md R49, 40_beat_detector.md R140 to
R151). -/

namespace Sys2Proof.Machine

/-! ## The frame assembler -/

/-- A sample that does not complete the frame (10_state.md R49). -/
theorem assemble_partial {x : Sample} {s : State} (h : s.fa.cnt + 1 < s.cfg.frameLen) :
    assemble x s = { s with fa :=
      { buf := s.fa.buf.take s.fa.cnt ++ [x], cnt := s.fa.cnt + 1,
        tcap := if s.fa.cnt = 0 then s.time else s.fa.tcap } } := by
  unfold assemble
  rw [if_neg (Nat.not_le.2 h)]

/-- The sample that completes the frame makes an item of it (10_state.md R49, 30_encoding.md R118). -/
theorem assemble_complete {x : Sample} {s : State} (h : s.cfg.frameLen ≤ s.fa.cnt + 1) :
    assemble x s = { s with
      fa := { buf := s.fa.buf.take s.fa.cnt ++ [x], cnt := 0, tcap := if s.fa.cnt = 0 then s.time else s.fa.tcap }
      env := { s.env with audio := s.env.audio ++
        [.frame (if s.fa.cnt = 0 then s.time else s.fa.tcap) (s.fa.buf.take s.fa.cnt ++ [x])] } } := by
  unfold assemble
  rw [if_pos h]

/-- One sample, as `Obligations.PushFrame` says it. -/
theorem assemble_spec (s : State) (x : Sample) :
    assemble x s = { s with fa := (assemble x s).fa, env := { s.env with audio := (assemble x s).env.audio } } ∧
    (assemble x s).fa.tcap = (if s.fa.cnt = 0 then s.time else s.fa.tcap) ∧
    (assemble x s).fa.buf = s.fa.buf.take s.fa.cnt ++ [x] ∧
    (s.fa.cnt + 1 < s.cfg.frameLen →
      (assemble x s).fa.cnt = s.fa.cnt + 1 ∧ (assemble x s).env.audio = s.env.audio) ∧
    (s.cfg.frameLen ≤ s.fa.cnt + 1 → (assemble x s).fa.cnt = 0 ∧
      (assemble x s).env.audio = s.env.audio ++ [.frame (assemble x s).fa.tcap (assemble x s).fa.buf]) := by
  refine ⟨assemble_frame x s, ?_⟩
  by_cases hc : s.cfg.frameLen ≤ s.fa.cnt + 1
  · rw [assemble_complete hc]
    exact ⟨rfl, rfl, fun h => absurd hc (Nat.not_le.2 h), fun _ => ⟨rfl, rfl⟩⟩
  · rw [assemble_partial (Nat.not_le.1 hc)]
    exact ⟨rfl, rfl, fun _ => ⟨rfl, rfl⟩, fun h => absurd h hc⟩

/-- A sample that arrives at the TIME it carries. -/
def arrive (s : State) (p : Time × Sample) : State := assemble p.2 { s with time := p.1 }

/-- The rest of a frame, from wherever the assembler stands: the samples it counts and those to come make one item, with
the latched time `t0`, or that of the next sample where none is latched yet. -/
theorem arrive_completes {t0 : Time} {p : Time × Sample} {rest : List (Time × Sample)} {s : State}
    (hbuf : s.fa.cnt ≤ s.fa.buf.length) (hlen : s.fa.cnt + rest.length + 1 = s.cfg.frameLen)
    (ht : (if s.fa.cnt = 0 then p.1 else s.fa.tcap) = t0) :
    ((p :: rest).foldl arrive s).env.audio =
        s.env.audio ++ [.frame t0 (s.fa.buf.take s.fa.cnt ++ p.2 :: rest.map (·.2))] ∧
      ((p :: rest).foldl arrive s).fa.cnt = 0 := by
  induction rest generalizing p s with
  | nil =>
    have hstep : arrive s p = _ := assemble_complete (s := { s with time := p.1 }) (x := p.2) hlen.ge
    rw [List.foldl_cons, List.foldl_nil, hstep]
    exact ⟨by simp only [ht, List.map_nil], rfl⟩
  | cons q rest ih =>
    have hlen' : s.fa.cnt + (rest.length + 1) + 1 = s.cfg.frameLen := hlen
    have hstep : arrive s p = _ :=
      assemble_partial (s := { s with time := p.1 }) (x := p.2) (show s.fa.cnt + 1 < s.cfg.frameLen by omega)
    have htake : (s.fa.buf.take s.fa.cnt).length = s.fa.cnt := List.length_take_of_le hbuf
    have hrest := ih (p := q) (s := arrive s p) (by simp [hstep, htake])
      (by rw [hstep]; show s.fa.cnt + 1 + rest.length + 1 = s.cfg.frameLen; omega) (by simpa [hstep] using ht)
    rw [List.foldl_cons]
    refine ⟨hrest.1.trans ?_, hrest.2⟩
    rw [hstep]
    simp [List.take_of_length_le, htake]

/-! ## The peak -/

/-- The peak index is the first at which the greatest absolute sample is reached (40_beat_detector.md R149). -/
theorem peakIndex_isFirstPeak {frame : List Sample} (h : frame ≠ []) :
    ∃ x, frame[peakIndex frame]? = some x ∧ sampleAbs x = peakLevel frame ∧ IsFirstPeak frame (peakIndex frame) := by
  have hlt := peakIndex_lt h
  have hpeak : sampleAbs frame[peakIndex frame] = peakLevel frame :=
    beq_iff_eq.1 (List.findIdx_getElem (p := fun x => sampleAbs x == peakLevel frame) (w := hlt))
  refine ⟨frame[peakIndex frame], List.getElem?_eq_getElem hlt, hpeak, _, List.getElem?_eq_getElem hlt, ?_, ?_⟩
  · exact fun y hy => (sampleAbs_le_peak hy).trans hpeak.ge
  · intro q y hq hy
    have hne : sampleAbs y ≠ peakLevel frame := by
      obtain ⟨hql, rfl⟩ := List.getElem?_eq_some_iff.1 hy
      simpa using List.not_of_lt_findIdx (p := fun x => sampleAbs x == peakLevel frame) hq
    exact lt_of_lt_of_eq (lt_of_le_of_ne (sampleAbs_le_peak (List.mem_of_getElem? hy)) hne) hpeak.symm

/-- D_VOL holds every peak level. -/
theorem peakLevel_toNat (frame : List Sample) : (BitVec.ofNat 16 (peakLevel frame)).toNat = peakLevel frame :=
  (BitVec.toNat_ofNat _ _).trans (Nat.mod_eq_of_lt (lt_of_le_of_lt (peakLevel_le frame) (by decide)))

/-! ## The signal's bounds -/

/-- BAND lists some of a frame's bins. -/
theorem band_length_le {c : Cfg} (hc : c.Wf) : (band c).length ≤ 32769 := by
  have h : (band c).length ≤ nBins c.frameLen :=
    (List.length_filter_le _ _).trans_eq List.length_range
  have hframe := hc.frame_range.2
  unfold nBins at h
  omega

/-- The flux fits the 48 bits of a D_HIST entry (10_state.md R26). -/
theorem fluxSignal_lt {c : Cfg} (hc : c.Wf) (m prev : List Magnitude) : fluxSignal c m prev < 2 ^ 48 := by
  have hterm : ∀ x ∈ (band c).zipIdx.map fun k => (m.getD k.1 0).toNat - (prev.getD k.2 0).toNat,
      x ≤ 2 ^ 32 - 1 := by
    simp only [List.mem_map]
    rintro _ ⟨k, -, rfl⟩
    have := (m.getD k.1 0).isLt
    omega
  have hsum := List.sum_le_card_nsmul _ _ hterm
  have hband := band_length_le hc
  rw [smul_eq_mul, List.length_map, List.length_zipIdx] at hsum
  calc fluxSignal c m prev ≤ (band c).length * (2 ^ 32 - 1) := hsum
    _ ≤ 32769 * (2 ^ 32 - 1) := Nat.mul_le_mul_right _ hband
    _ < 2 ^ 48 := by decide

/-- The mean of a band, where an empty band has mean 0 as natural division has it. -/
theorem bandEnergy_eq (c : Cfg) (m : List Magnitude) :
    bandEnergy c m = ((band c).map fun k => (m.getD k 0).toNat).sum / (band c).length := by
  unfold bandEnergy
  split
  · rename_i h
    simp [List.isEmpty_iff.1 h]
  · rfl

/-- A mean of magnitudes fits D_E_PREV (40_beat_detector.md R145). -/
theorem bandEnergy_lt (c : Cfg) (m : List Magnitude) : bandEnergy c m < 2 ^ 32 := by
  have hterm : ∀ x ∈ (band c).map fun k => (m.getD k 0).toNat, x ≤ 2 ^ 32 - 1 := by
    simp only [List.mem_map]
    rintro _ ⟨k, -, rfl⟩
    have := (m.getD k 0).isLt
    omega
  have hsum := List.sum_le_card_nsmul _ _ hterm
  rw [smul_eq_mul, List.length_map] at hsum
  rw [bandEnergy_eq]
  exact lt_of_le_of_lt (Nat.div_le_of_le_mul hsum) (by decide)

/-- SIGNAL in a well-formed configuration fits the history's 48 bits. -/
theorem signal_lt {c : Cfg} (hc : c.Wf) (m : List Magnitude) (d : Detector) : (signal c m d).1 < 2 ^ 48 := by
  unfold signal
  split
  · exact fluxSignal_lt hc m d.prevSpec
  · have := bandEnergy_lt c m
    simp only [energySignal]
    omega

theorem signal_flux {c : Cfg} (hm : c.detMethod = .flux) (m : List Magnitude) (d : Detector) :
    signal c m d = (fluxSignal c m d.prevSpec, { d with prevSpec := bandSpectrum c m }) := by
  simp only [signal, hm]

theorem signal_energy {c : Cfg} (hm : c.detMethod = .energy) (m : List Magnitude) (d : Detector) :
    signal c m d =
      (energySignal (bandEnergy c m) d.ePrev.toNat, { d with ePrev := BitVec.ofNat 32 (bandEnergy c m) }) := by
  simp only [signal, hm]

/-! ## History and firing -/

/-- The history as numbers (40_beat_detector.md R146). -/
theorem pushHistory_toNat {c : Cfg} {h : List (BitVec 48)} {sig : Nat} (hs : sig < 2 ^ 48) :
    (pushHistory c h sig).map (·.toNat) =
      if c.histLen < h.length + 1 then (h.map (·.toNat) ++ [sig]).tail else h.map (·.toNat) ++ [sig] := by
  have happend : (h ++ [BitVec.ofNat 48 sig]).map (·.toNat) = h.map (·.toNat) ++ [sig] := by
    simpa using hs
  unfold pushHistory
  dsimp only
  rw [List.length_append, List.length_singleton]
  split
  · rw [← happend, List.map_tail]
  · exact happend

/-- The three conditions of a beat (40_beat_detector.md R146, R148). -/
theorem fires_iff {c : Cfg} {d : Detector} {tCap : Time} {sig : Nat} {h : List (BitVec 48)} :
    fires c d tCap sig h = true ↔ c.histMin ≤ h.length ∧ threshold c h < sig ∧
      (d.lbValid = false ∨ c.refractoryUs < tCap.toNat - d.lastBeat.toNat) := by
  have hsub : tCap.toNat - d.lastBeat.toNat = satSub tCap d.lastBeat := rfl
  simp [fires, refractoryClear, hsub, and_assoc]

theorem storeResult_det (r : Detector × Option Time) (s : State) : (storeResult r s).det = r.1 := by
  unfold storeResult
  split <;> rfl

/-- The capture agent takes a due frame of the right length by PUSH_FRAME (40_beat_detector.md R157). -/
theorem captureStep_frame_due {s : State} {tCap : Time} {frame : List Sample} {rest : List AudioItem}
    (hv : s.mbox.valid = false) (hr : s.loops.runCapture = true) (hs : s.loops.stopCapture = false)
    (ha : s.env.audio = .frame tCap frame :: rest) (hdue : tCap.toNat ≤ s.time.toNat)
    (hlen : frame.length = s.cfg.frameLen) :
    captureStep s =
      .next (storeResult (processFrame s.cfg (magnitudes frame) frame tCap s.det) (popAudio s)) := by
  have hnext : nextItem? s = some (.frame tCap frame) := by simp [nextItem?, ha, itemDue, hdue]
  simp [captureStep, hv, hr, hs, hnext, takeItem, pushFrame, hlen]

/-- The stored result differs from the popped state in the detector and the mailbox only. -/
theorem storeResult_popAudio_frame {s : State} {it : AudioItem} {rest : List AudioItem} (ha : s.env.audio = it :: rest)
    (r : Detector × Option Time) : storeResult r (popAudio s) = { s with
      det := (storeResult r (popAudio s)).det, mbox := (storeResult r (popAudio s)).mbox
      env := { s.env with audio := rest } } := by
  have htail : s.env.audio.tail = rest := by rw [ha, List.tail_cons]
  rw [← htail]
  unfold storeResult
  split <;> rfl

end Sys2Proof.Machine

namespace Sys2Proof.Proofs
open Sys2Proof.Machine

/-- Settles O46. The first two clauses are `assemble_spec` and `arrive_completes` from an empty assembler; the third reads
the stored result of `processFrame`, whose firing and silent outcomes are `processFrame_cases`. -/
theorem pushFrame : Obligations.PushFrame := by
  refine ⟨fun s x => ⟨_, rfl, assemble_spec s x⟩, ?_, ?_⟩
  · intro s t0 x0 rest hcnt hlen
    have h := arrive_completes (p := (t0, x0)) (rest := rest) (s := s) (t0 := t0) (by omega) (by omega)
      (if_pos hcnt)
    rw [hcnt, List.take_zero, List.nil_append] at h
    exact ⟨_, rfl, h⟩
  · intro s tCap frame rest hcfg hv hr hs ha hdue hlen
    have hne : frame ≠ [] := List.ne_nil_of_length_pos (by have := hcfg.frame_range.1; omega)
    obtain ⟨x, hx, hpeak, hfirst⟩ := peakIndex_isFirstPeak hne
    have hsig := signal_lt hcfg (magnitudes frame) s.det
    obtain ⟨hfail, hvol, hhist, hspec, henergy⟩ := processFrame_always s.cfg (magnitudes frame) frame tCap s.det
    have hcases := processFrame_cases s.cfg (magnitudes frame) frame tCap s.det
    rw [← hhist] at hcases
    refine ⟨_, peakIndex frame, x, (signal s.cfg (magnitudes frame) s.det).1,
      captureStep_frame_due hv hr hs ha hdue hlen, hfirst, hx, storeResult_popAudio_frame ha _, ?_⟩
    rw [storeResult_det]
    generalize processFrame s.cfg (magnitudes frame) frame tCap s.det = r at *
    refine ⟨hfail, ?_, ?_, ?_, ?_, ?_, ?_⟩
    · rw [hvol, peakLevel_toNat]
      exact hpeak.symm
    · intro hm
      rw [hspec, henergy, signal_flux hm]
      exact ⟨rfl, rfl, rfl⟩
    · intro hm
      have hE : (BitVec.ofNat 32 (bandEnergy s.cfg (magnitudes frame))).toNat = bandEnergy s.cfg (magnitudes frame) :=
        (BitVec.toNat_ofNat _ _).trans (Nat.mod_eq_of_lt (bandEnergy_lt s.cfg (magnitudes frame)))
      rw [hspec, henergy, signal_energy hm]
      refine ⟨rfl, hE.trans (bandEnergy_eq _ _), ?_⟩
      rw [hE]
      simp only [energySignal]
      omega
    · rw [hhist]
      exact pushHistory_toNat hsig
    · intro hfire
      rcases hcases with ⟨hsilent, -⟩ | ⟨-, hts, hbeat, hvalid⟩
      · exact Bool.noConfusion (hsilent.symm.trans (fires_iff.2 hfire))
      · simp only [storeResult, hts]
        exact ⟨trivial, rfl, hbeat, hvalid⟩
    · intro hquiet
      rcases hcases with ⟨-, hts, hbeat, hvalid⟩ | ⟨hfire, -⟩
      · simp only [storeResult, hts]
        exact ⟨rfl, hbeat, hvalid⟩
      · exact absurd (fires_iff.1 hfire) hquiet

end Sys2Proof.Proofs
end

section
/-! PROOFS. Every step keeps the channel space in canonical form and inside 1..N (20_memory.md R70, R71). Only a
command, a tick and the reset write CH; every other move leaves it and N as they are (`step_owned`). -/

namespace Sys2Proof.Machine

/-- N is the configuration's, so a step that leaves CFG and CH leaves the channel space as good as it was. -/
theorem ChannelsOk.of_unchanged {s t : State} (h : ChannelsOk s) (hcfg : t.cfg = s.cfg) (hch : t.ch = s.ch) :
    ChannelsOk t := by
  unfold ChannelsOk at h ⊢
  rw [State.n_eq, hcfg, hch]
  exact h

/-- The reset empties CH, which is the canonical form of all cells 0 (70_reset_and_hazards.md R360). -/
theorem resetInput_channelsOk (s : State) : ChannelsOk (resetInput s) :=
  ⟨Memory.wf_nil, Memory.within_nil _⟩

/-- A refused word changes no cell, a decoded command keeps them (`exec_channelsOk`). -/
theorem hostStep_channelsOk {s t : State} (h : ChannelsOk s) (hs : hostStep s = .next t) : ChannelsOk t := by
  rcases hostStep_next hs with rfl | ⟨info, rfl⟩ | ⟨i, -, -, he⟩
  · exact h
  · exact h.of_unchanged (State.refuse_cfg ..) (State.refuse_ch ..)
  · exact exec_channelsOk h he

/-- A tick paints only after UPDATE's check that every fixture's cells lie inside 1..N (10_state.md R36). -/
theorem tickStep_channelsOk {s t : State} (h : ChannelsOk s) (hs : tickStep s = .next t) : ChannelsOk t := by
  rcases tickStep_next hs with ⟨-, rfl⟩ | ⟨-, -, rfl⟩ | ⟨-, -, d, hready, rfl⟩
  · exact h
  · exact h.of_unchanged (tickStop_cfg _) (tickStop_ch _)
  · obtain ⟨-, -, hranges⟩ := updateReady_ok hready
    exact (updateWith_channelsOk hranges h).of_unchanged (advanceTick_cfg _) (advanceTick_ch _)

/-- Every step keeps the channel space: the writers of CH by their own lemmas, the other moves by ownership. -/
theorem step_channelsOk {s t : State} (h : ChannelsOk s) (hs : step s = .next t) : ChannelsOk t := by
  have htaken : ChannelsOk s.takeMove := h.of_unchanged (State.takeMove_cfg _) (State.takeMove_ch _)
  by_cases hreset : s.nextMove = .reset
  · simp only [step, hreset, perform] at hs
    cases hs
    exact resetInput_channelsOk _
  by_cases hhost : s.nextMove = .host
  · simp only [step, hhost, perform] at hs
    exact hostStep_channelsOk htaken hs
  by_cases hticker : s.nextMove = .ticker
  · simp only [step, hticker, perform] at hs
    exact tickStep_channelsOk htaken hs
  · have howned := step_owned hs hreset
    exact h.of_unchanged howned.cfg (howned.ch hhost hticker)

end Sys2Proof.Machine

namespace Sys2Proof.Proofs
open Sys2Proof.Machine

/-- Settles O18: the statement is `step_channelsOk` with `ChannelsOk` taken apart. -/
theorem channelSpaceStaysCanonical : Obligations.ChannelSpaceStaysCanonical :=
  fun _ _ hwf hwithin hs => step_channelsOk ⟨hwf, hwithin⟩ hs

end Sys2Proof.Proofs
end

section
/-! PROOFS. The decoder and the encoder (30_encoding.md R100 to R111, R120): which words are the header of a row, field
by field, when a sequence of words is a command, and that encoding and decoding undo each other. -/

namespace Sys2Proof.Laws

/-! ## Words as rows of fields -/

/-- Two rows of fields agree exactly when they agree field by field. -/
theorem append_inj_iff {m n : Nat} {x x' : BitVec m} {y y' : BitVec n} : x ++ y = x' ++ y' ↔ x = x' ∧ y = y' := by
  constructor
  · intro h
    have hleft := congrArg (BitVec.extractLsb' n m) h
    have hright := congrArg (BitVec.extractLsb' 0 n) h
    rw [BitVec.extractLsb'_append_eq_left, BitVec.extractLsb'_append_eq_left] at hleft
    rw [BitVec.extractLsb'_append_eq_right, BitVec.extractLsb'_append_eq_right] at hright
    exact ⟨hleft, hright⟩
  · rintro ⟨rfl, rfl⟩
    rfl

/-- Every word is a row of two fields. -/
theorem exists_append {m n : Nat} (w : BitVec (m + n)) : ∃ (x : BitVec m) (y : BitVec n), w = x ++ y :=
  ⟨_, _, BitVec.extractLsb'_append_extractLsb'.symm⟩

/-- The middle one of three fields. -/
theorem extract_middle {k m n : Nat} (op : BitVec k) (x : BitVec m) (y : BitVec n) :
    (op ++ x ++ y).extractLsb' n m = x := by
  rw [BitVec.extractLsb'_append_eq_of_le (Nat.le_refl n), Nat.sub_self, BitVec.extractLsb'_append_eq_right]

section Masks
variable {m n : Nat} {op : BitVec 8} {mask mtch : BitVec (8 + m + n)}

/-- A mask over OP and parts of the other two fields selects the words with this OP whose masked parts are zero. -/
theorem masked_eq_iff {xmask : BitVec m} {ymask : BitVec n} (hmask : mask = BitVec.allOnes 8 ++ xmask ++ ymask)
    (hmtch : mtch = op ++ 0#m ++ 0#n) (h : BitVec (8 + m + n)) :
    h &&& mask = mtch ↔
      ∃ (x : BitVec m) (y : BitVec n), h = op ++ x ++ y ∧ x &&& xmask = 0#m ∧ y &&& ymask = 0#n := by
  subst hmask hmtch
  constructor
  · obtain ⟨top, y, rfl⟩ := exists_append h
    obtain ⟨b, x, rfl⟩ := exists_append top
    rw [BitVec.and_append, BitVec.and_append, append_inj_iff, append_inj_iff, BitVec.and_allOnes]
    rintro ⟨⟨rfl, hx⟩, hy⟩
    exact ⟨x, y, rfl, hx, hy⟩
  · rintro ⟨x, y, rfl, hx, hy⟩
    rw [BitVec.and_append, BitVec.and_append, BitVec.and_allOnes, hx, hy]

/-- A row without zero fields. -/
theorem masked_free_iff (hmask : mask = BitVec.allOnes 8 ++ 0#m ++ 0#n) (hmtch : mtch = op ++ 0#m ++ 0#n)
    (h : BitVec (8 + m + n)) : h &&& mask = mtch ↔ ∃ (x : BitVec m) (y : BitVec n), h = op ++ x ++ y := by
  simp only [masked_eq_iff hmask hmtch, BitVec.and_zero, and_true]

/-- A row whose last field is zero. -/
theorem masked_last_iff (hmask : mask = BitVec.allOnes 8 ++ 0#m ++ BitVec.allOnes n) (hmtch : mtch = op ++ 0#m ++ 0#n)
    (h : BitVec (8 + m + n)) : h &&& mask = mtch ↔ ∃ x : BitVec m, h = op ++ x ++ 0#n := by
  simp only [masked_eq_iff hmask hmtch, BitVec.and_zero, BitVec.and_allOnes, true_and, exists_eq_right]

/-- A row whose middle field is zero. -/
theorem masked_middle_iff (hmask : mask = BitVec.allOnes 8 ++ BitVec.allOnes m ++ 0#n)
    (hmtch : mtch = op ++ 0#m ++ 0#n) (h : BitVec (8 + m + n)) :
    h &&& mask = mtch ↔ ∃ y : BitVec n, h = op ++ 0#m ++ y := by
  simp only [masked_eq_iff hmask hmtch, BitVec.and_zero, BitVec.and_allOnes, and_true]
  rw [exists_comm]
  simp only [exists_eq_right]

/-- A row whose middle field ends in zeros. -/
theorem masked_inner_iff {k : Nat} {mask mtch : BitVec (8 + (m + k) + n)}
    (hmask : mask = BitVec.allOnes 8 ++ (0#m ++ BitVec.allOnes k) ++ 0#n) (hmtch : mtch = op ++ 0#(m + k) ++ 0#n)
    (h : BitVec (8 + (m + k) + n)) :
    h &&& mask = mtch ↔ ∃ (x : BitVec m) (y : BitVec n), h = op ++ (x ++ 0#k) ++ y := by
  rw [masked_eq_iff hmask hmtch]
  constructor
  · rintro ⟨middle, y, rfl, hmiddle, -⟩
    obtain ⟨x, z, rfl⟩ := exists_append middle
    rw [BitVec.and_append, ← BitVec.zero_append_zero, append_inj_iff, BitVec.and_allOnes] at hmiddle
    obtain ⟨-, rfl⟩ := hmiddle
    exact ⟨x, y, rfl⟩
  · rintro ⟨x, y, rfl⟩
    refine ⟨x ++ 0#k, y, rfl, ?_, BitVec.and_zero⟩
    rw [BitVec.and_append, BitVec.and_zero, BitVec.zero_and, BitVec.zero_append_zero]

/-- A row that leaves no bit free. -/
theorem masked_whole_iff {w : Nat} {mask : BitVec w} (hmask : mask = BitVec.allOnes w) (mtch h : BitVec w) :
    h &&& mask = mtch ↔ h = mtch := by
  rw [hmask, BitVec.and_allOnes]

end Masks

/-! ## The headers of a row -/

/-- The header of each format, field by field (30_encoding.md R102 to R109). -/
def HasFormat : Opcode → Word → Prop
  | .setChannel, h => ∃ idx val : BitVec 12, h = opByte .setChannel ++ idx ++ val
  | .setChannels, h => ∃ count : BitVec 12, h = opByte .setChannels ++ count ++ 0#12
  | .getChannel, h => ∃ idx : BitVec 12, h = opByte .getChannel ++ idx ++ 0#12
  | .blackout, h => h = headerMatch .blackout
  | .setAll, h => ∃ val : BitVec 12, h = opByte .setAll ++ 0#12 ++ val
  | .setPreset, h => ∃ id : BitVec 8, h = opByte .setPreset ++ 0#16 ++ id
  | .setAudioReactive, h => ∃ en : BitVec 1, h = opByte .setAudioReactive ++ 0#23 ++ en
  | .setAddress, h => ∃ (fix : BitVec 4) (addr : BitVec 12), h = opByte .setAddress ++ (fix ++ 0#8) ++ addr
  | .getStatus, h => h = headerMatch .getStatus
  | .setBpm, h => ∃ bpm : BitVec 16, h = opByte .setBpm ++ 0#8 ++ bpm
  | .beat, h => h = headerMatch .beat
  | .trigger, h => h = headerMatch .trigger
  | .update, h => h = headerMatch .update
  | .getVolume, h => h = headerMatch .getVolume
  | .start, h => ∃ mask : BitVec 3, h = opByte .start ++ 0#21 ++ mask
  | .stop, h => ∃ mask : BitVec 3, h = opByte .stop ++ 0#21 ++ mask

/-- `(CW and mask) = match` says that the word has the row's OP and zeros in the format's zero fields
(30_encoding.md R111). -/
theorem selects_iff_hasFormat (o : Opcode) (h : Word) : h &&& headerMask o = headerMatch o ↔ HasFormat o h := by
  cases o with
  | setChannel => exact masked_free_iff (m := 12) (n := 12) (by decide) (by decide) h
  | setChannels => exact masked_last_iff (m := 12) (n := 12) (by decide) (by decide) h
  | getChannel => exact masked_last_iff (m := 12) (n := 12) (by decide) (by decide) h
  | setAll => exact masked_middle_iff (m := 12) (n := 12) (by decide) (by decide) h
  | setPreset => exact masked_middle_iff (m := 16) (n := 8) (by decide) (by decide) h
  | setAudioReactive => exact masked_middle_iff (m := 23) (n := 1) (by decide) (by decide) h
  | setAddress => exact masked_inner_iff (m := 4) (k := 8) (n := 12) (by decide) (by decide) h
  | setBpm => exact masked_middle_iff (m := 8) (n := 16) (by decide) (by decide) h
  | start => exact masked_middle_iff (m := 21) (n := 3) (by decide) (by decide) h
  | stop => exact masked_middle_iff (m := 21) (n := 3) (by decide) (by decide) h
  | blackout => exact masked_whole_iff (by decide) _ h
  | getStatus => exact masked_whole_iff (by decide) _ h
  | beat => exact masked_whole_iff (by decide) _ h
  | trigger => exact masked_whole_iff (by decide) _ h
  | update => exact masked_whole_iff (by decide) _ h
  | getVolume => exact masked_whole_iff (by decide) _ h

/-! ## The header's opcode -/

/-- A header that selects a row has the row's OP: every mask covers OP. -/
theorem opField_of_selects {o : Opcode} {h : Word} (hs : h &&& headerMask o = headerMatch o) :
    field 31 24 h = opByte o := by
  have hmask : (headerMask o).extractLsb' 24 8 = BitVec.allOnes 8 := by cases o <;> decide
  have hop := congrArg (BitVec.extractLsb' 24 8) hs
  rw [BitVec.extractLsb'_and, hmask, BitVec.and_allOnes] at hop
  exact hop.trans BitVec.extractLsb'_append_eq_left

theorem mem_allOpcodes (o : Opcode) : o ∈ allOpcodes := by cases o <;> decide

theorem opcodeOf?_opByte (o : Opcode) : opcodeOf? (opByte o) = some o := by cases o <;> decide

/-- The map finds exactly the row with the OP asked for (30_encoding.md R101, R111). -/
theorem opcodeOf?_eq_some_iff {b : BitVec 8} {o : Opcode} : opcodeOf? b = some o ↔ b = opByte o := by
  constructor
  · intro h
    exact (beq_iff_eq.1 (List.find?_some (p := fun o => opByte o == b) h)).symm
  · rintro rfl
    exact opcodeOf?_opByte o

theorem opcodeOf?_eq_none_iff {b : BitVec 8} : opcodeOf? b = none ↔ ∀ o, b ≠ opByte o := by
  simp only [Option.eq_none_iff_forall_ne_some, ne_eq, opcodeOf?_eq_some_iff]

/-- A header is accepted for a row exactly when it selects the row. -/
theorem decodeHeader_eq_ok_iff {h : Word} {o : Opcode} :
    decodeHeader h = .ok o ↔ h &&& headerMask o = headerMatch o := by
  unfold decodeHeader
  constructor
  · intro hd
    split at hd
    · cases hd
    · rename_i row _
      split at hd
      · rename_i hs
        cases hd
        exact of_decide_eq_true hs
      · cases hd
  · intro hs
    rw [opcodeOf?_eq_some_iff.2 (opField_of_selects hs)]
    exact if_pos (decide_eq_true hs)

/-- A header is refused for its OP exactly when no row has it (30_encoding.md R120). -/
theorem decodeHeader_unassigned_iff {h : Word} :
    decodeHeader h = .error (.unassignedOpcode (info24 h)) ↔ ∀ o, field 31 24 h ≠ opByte o := by
  rw [← opcodeOf?_eq_none_iff]
  unfold decodeHeader
  constructor
  · intro hd
    split at hd
    · assumption
    · split at hd <;> cases hd
  · intro hnone
    rw [hnone]

/-- A header that selects no row is illegal, for its OP or for a zero field, and reported with its low 24 bits
(30_encoding.md R120). -/
theorem decodeHeader_illegal {h : Word} (hno : ∀ o, h &&& headerMask o ≠ headerMatch o) :
    decodeHeader h = .error (.unassignedOpcode (info24 h)) ∨
      decodeHeader h = .error (.nonzeroZeroField (info24 h)) := by
  unfold decodeHeader
  split
  · exact .inl rfl
  · rename_i o _
    exact .inr (if_neg fun hs => hno o (of_decide_eq_true hs))

/-! ## Operand words -/

theorem operandWords_of_ok {h : Word} {o : Opcode} (hd : decodeHeader h = .ok o) :
    operandWords h = operandCount o h := by
  unfold operandWords
  rw [hd]

theorem operandWords_of_error {h : Word} {e : DecodeError} (hd : decodeHeader h = .error e) : operandWords h = 0 := by
  unfold operandWords
  rw [hd]

/-- The number of operand words by the row's OP (30_encoding.md R110). -/
theorem operandCount_eq (o : Opcode) (h : Word) :
    operandCount o h =
      if opByte o = 0x25 ∨ opByte o = 0x26 ∨ opByte o = 0x27 then 2
      else if opByte o = 0x11 then (field 23 12 h).toNat else 0 := by
  cases o <;> rfl

/-- A pair word is decoded to the pair it encodes. -/
theorem decodePair_encodePair (p : Pair) : decodePair (encodePair p) = p := by
  have hidx : field 23 12 (encodePair p) = p.idx := extract_middle 0#8 p.idx p.val
  have hval : field 11 0 (encodePair p) = p.val := BitVec.extractLsb'_append_eq_right
  simp only [decodePair, hidx, hval]

/-- PW[31:24] of a pair word is zero (30_encoding.md R106). -/
theorem opField_encodePair (p : Pair) : field 31 24 (encodePair p) = 0#8 := opField_three 0#8 p.idx p.val rfl

/-- A pair word with PW[31:24] zero is the encoding of its pair. -/
theorem encodePair_decodePair {w : Word} (hw : field 31 24 w = 0#8) : encodePair (decodePair w) = w := by
  obtain ⟨top, y, rfl⟩ := exists_append (m := 20) (n := 12) w
  obtain ⟨b, x, rfl⟩ := exists_append (m := 8) (n := 12) top
  obtain rfl : b = 0#8 := (opField_three b x y rfl).symm.trans hw
  change encodePair (decodePair (encodePair ⟨x, y⟩)) = encodePair ⟨x, y⟩
  rw [decodePair_encodePair]

/-- The pairs of a map are read exactly from their encodings (30_encoding.md R106). -/
theorem decodePairs_eq_ok_iff {ws : List Word} {pairs : List Pair} :
    decodePairs ws = .ok pairs ↔ pairs.map encodePair = ws := by
  unfold decodePairs
  constructor
  · intro hd
    split at hd
    · cases hd
    · rename_i hgood
      cases hd
      have hzero : ∀ w ∈ ws, field 31 24 w = 0#8 := by simpa using hgood
      rw [List.map_map]
      exact (List.map_congr_left fun w hw => encodePair_decodePair (hzero w hw)).trans (List.map_id _)
  · rintro rfl
    have hgood : (pairs.map encodePair).find? (fun w => field 31 24 w != 0) = none := by
      simp [opField_encodePair]
    have hpairs : (pairs.map encodePair).map decodePair = pairs := by
      rw [List.map_map]
      exact (List.map_congr_left fun p _ => decodePair_encodePair p).trans (List.map_id _)
    rw [hgood, hpairs]

/-- The first pair word with PW[31:24] not zero is reported (30_encoding.md R120). -/
theorem decodePairs_illegal {w : Word} {before after : List Word} (hbefore : ∀ v ∈ before, field 31 24 v = 0#8)
    (hw : field 31 24 w ≠ 0#8) : decodePairs (before ++ w :: after) = .error (.nonzeroPairField (info24 w)) := by
  have hfirst : (before ++ w :: after).find? (fun v => field 31 24 v != 0) = some w := by
    rw [List.find?_append, List.find?_eq_none.2 (fun v hv => by simp [hbefore v hv]), Option.none_or,
      List.find?_cons_of_pos (by simpa using hw)]
  unfold decodePairs
  rw [hfirst]

/-- A timestamp is read back from its two words, low word first (30_encoding.md R109). -/
theorem timestampOperand_words (ts : Time) : timestampOperand [timeLo ts, timeHi ts] = ts :=
  BitVec.extractLsb'_append_extractLsb' (w := 32) (len := 32)

/-- Any two words are those of a timestamp. -/
theorem exists_timeWords {ops : List Word} (hlen : ops.length = 2) : ∃ ts : Time, ops = [timeLo ts, timeHi ts] := by
  obtain ⟨lo, hi, rfl⟩ := List.length_eq_two.1 hlen
  have hlo : timeLo (joinTime lo hi) = lo := BitVec.extractLsb'_append_eq_right
  have hhi : timeHi (joinTime lo hi) = hi := BitVec.extractLsb'_append_eq_left
  exact ⟨joinTime lo hi, by rw [hlo, hhi]⟩

theorem exists_ofBool (b : BitVec 1) : ∃ en : Bool, b = BitVec.ofBool en := ⟨b.msb, by revert b; decide⟩

/-! ## Whole commands -/

/-- A sequence of words is a command when its header selects a row, exactly the operand words the header asks for
follow, and these are legal (30_encoding.md R100, R110). -/
theorem decode_cons_eq_ok_iff {h : Word} {ops : List Word} {i : Instr} :
    decode (h :: ops) = .ok i ↔
      ∃ o, HasFormat o h ∧ ops.length = operandCount o h ∧ decodeOperands o h ops = .ok i := by
  simp only [← selects_iff_hasFormat, ← decodeHeader_eq_ok_iff]
  unfold decode
  constructor
  · intro hd
    dsimp only at hd
    split at hd
    · cases hd
    · rename_i o ho
      split at hd
      · cases hd
      · split at hd
        · cases hd
        · exact ⟨o, ho, by omega, hd⟩
  · rintro ⟨o, ho, hlen, hops⟩
    simp only [ho, hlen, Nat.lt_irrefl, if_false, hops]

/-- The fields of a SET_ADDRESS header in the encoder's grouping. -/
theorem addressHeader_assoc (fix : BitVec 4) (addr : BitVec 12) :
    (opByte .setAddress ++ (fix ++ 0#8) ++ addr : Word) = opByte .setAddress ++ fix ++ 0#8 ++ addr :=
  congrArg (fun top : BitVec 20 => top ++ addr) BitVec.append_assoc.symm

/-- COUNT of a map's header is its number of pairs, which fits twelve bits (30_encoding.md R106). -/
theorem operandCount_mapHeader {k : Nat} (hk : k ≤ 4095) :
    operandCount .setChannels (opByte .setChannels ++ BitVec.ofNat 12 k ++ 0#12) = k := by
  have hcount : field 23 12 (opByte .setChannels ++ BitVec.ofNat 12 k ++ 0#12) = BitVec.ofNat 12 k := extract_middle ..
  rw [operandCount, hcount, BitVec.toNat_ofNat]
  omega

/-- The encoding of a command is a header in the format of its row and the operand words that header asks for, and the
row's operands are read from them as the command's. -/
theorem encode_spec {i : Instr} (hi : i.wellFormed = true) :
    ∃ h ops, encode i = h :: ops ∧ HasFormat (opcodeOf i) h ∧ ops.length = operandCount (opcodeOf i) h ∧
      decodeOperands (opcodeOf i) h ops = .ok i := by
  cases i with
  | setChannel idx val =>
    refine ⟨_, _, rfl, ⟨idx, val, rfl⟩, rfl, ?_⟩
    have hidx : field 23 12 (opByte .setChannel ++ idx ++ val) = idx := extract_middle ..
    have hval : field 11 0 (opByte .setChannel ++ idx ++ val) = val := BitVec.extractLsb'_append_eq_right
    simp only [opcodeOf, decodeOperands, hidx, hval]
  | setChannels pairs =>
    refine ⟨_, _, rfl, ⟨_, rfl⟩, ?_, ?_⟩
    · rw [List.length_map]
      exact (operandCount_mapHeader (of_decide_eq_true hi)).symm
    · simp only [opcodeOf, decodeOperands, decodePairs_eq_ok_iff.2 rfl]
  | getChannel idx =>
    refine ⟨_, _, rfl, ⟨idx, rfl⟩, rfl, ?_⟩
    have hidx : field 23 12 (opByte .getChannel ++ idx ++ 0#12) = idx := extract_middle ..
    simp only [opcodeOf, decodeOperands, hidx]
  | setAll val =>
    refine ⟨_, _, rfl, ⟨val, rfl⟩, rfl, ?_⟩
    have hval : field 11 0 (opByte .setAll ++ 0#12 ++ val) = val := BitVec.extractLsb'_append_eq_right
    simp only [opcodeOf, decodeOperands, hval]
  | setPreset id =>
    refine ⟨_, _, rfl, ⟨id, rfl⟩, rfl, ?_⟩
    have hid : field 7 0 (opByte .setPreset ++ 0#16 ++ id) = id := BitVec.extractLsb'_append_eq_right
    simp only [opcodeOf, decodeOperands, hid]
  | setAudioReactive en =>
    refine ⟨_, _, rfl, ⟨BitVec.ofBool en, rfl⟩, rfl, ?_⟩
    have hen : (opByte .setAudioReactive ++ 0#23 ++ BitVec.ofBool en : Word).getLsbD 0 = en := by
      rw [BitVec.getLsbD_append]
      simp
    simp only [opcodeOf, decodeOperands, hen]
  | setAddress fix addr =>
    refine ⟨_, _, rfl, ⟨fix, addr, (addressHeader_assoc fix addr).symm⟩, rfl, ?_⟩
    have hfix : field 23 20 (opByte .setAddress ++ fix ++ 0#8 ++ addr) = fix := by
      rw [field, BitVec.extractLsb, BitVec.extractLsb'_append_eq_of_le (by decide)]
      exact extract_middle ..
    have haddr : field 11 0 (opByte .setAddress ++ fix ++ 0#8 ++ addr) = addr := BitVec.extractLsb'_append_eq_right
    simp only [opcodeOf, decodeOperands, hfix, haddr]
  | setBpm bpm =>
    refine ⟨_, _, rfl, ⟨bpm, rfl⟩, rfl, ?_⟩
    have hbpm : field 15 0 (opByte .setBpm ++ 0#8 ++ bpm) = bpm := BitVec.extractLsb'_append_eq_right
    simp only [opcodeOf, decodeOperands, hbpm]
  | beat ts =>
    refine ⟨_, _, rfl, rfl, rfl, ?_⟩
    simp only [opcodeOf, decodeOperands, timestampOperand_words]
  | trigger ts =>
    refine ⟨_, _, rfl, rfl, rfl, ?_⟩
    simp only [opcodeOf, decodeOperands, timestampOperand_words]
  | update now =>
    refine ⟨_, _, rfl, rfl, rfl, ?_⟩
    simp only [opcodeOf, decodeOperands, timestampOperand_words]
  | start mask =>
    refine ⟨_, _, rfl, ⟨mask, rfl⟩, rfl, ?_⟩
    have hmask : field 2 0 (opByte .start ++ 0#21 ++ mask) = mask := BitVec.extractLsb'_append_eq_right
    simp only [opcodeOf, decodeOperands, hmask]
  | stop mask =>
    refine ⟨_, _, rfl, ⟨mask, rfl⟩, rfl, ?_⟩
    have hmask : field 2 0 (opByte .stop ++ 0#21 ++ mask) = mask := BitVec.extractLsb'_append_eq_right
    simp only [opcodeOf, decodeOperands, hmask]
  | blackout => exact ⟨_, _, rfl, rfl, rfl, rfl⟩
  | getStatus => exact ⟨_, _, rfl, rfl, rfl, rfl⟩
  | getVolume => exact ⟨_, _, rfl, rfl, rfl, rfl⟩

/-- Decoding undoes encoding. -/
theorem decode_encode {i : Instr} (hi : i.wellFormed = true) : decode (encode i) = .ok i := by
  obtain ⟨h, ops, heq, hformat, hlen, hops⟩ := encode_spec hi
  rw [heq]
  exact decode_cons_eq_ok_iff.2 ⟨_, hformat, hlen, hops⟩

/-- A header in a row's format, with the operand words it asks for, is the encoding of a command as soon as the operand
words are legal: only a map's pair words can be illegal (30_encoding.md R120). -/
theorem exists_encode {o : Opcode} {h : Word} {ops : List Word} {i : Instr} (hformat : HasFormat o h)
    (hlen : ops.length = operandCount o h) (hops : decodeOperands o h ops = .ok i) :
    ∃ j : Instr, j.wellFormed = true ∧ encode j = h :: ops := by
  cases o with
  | setChannel =>
    obtain ⟨idx, val, rfl⟩ := hformat
    obtain rfl := List.eq_nil_of_length_eq_zero hlen
    exact ⟨.setChannel idx val, rfl, rfl⟩
  | setChannels =>
    obtain ⟨count, rfl⟩ := hformat
    have hcount : ops.length = count.toNat := hlen.trans (congrArg BitVec.toNat (extract_middle ..))
    obtain ⟨pairs, rfl⟩ : ∃ pairs : List Pair, pairs.map encodePair = ops := by
      simp only [decodeOperands] at hops
      split at hops
      · rename_i pairs hpairs
        exact ⟨pairs, decodePairs_eq_ok_iff.1 hpairs⟩
      · cases hops
    rw [List.length_map] at hcount
    refine ⟨.setChannels pairs, decide_eq_true ?_, ?_⟩
    · have := count.isLt
      omega
    · rw [encode, hcount, BitVec.ofNat_toNat, BitVec.setWidth_eq]
  | getChannel =>
    obtain ⟨idx, rfl⟩ := hformat
    obtain rfl := List.eq_nil_of_length_eq_zero hlen
    exact ⟨.getChannel idx, rfl, rfl⟩
  | setAll =>
    obtain ⟨val, rfl⟩ := hformat
    obtain rfl := List.eq_nil_of_length_eq_zero hlen
    exact ⟨.setAll val, rfl, rfl⟩
  | setPreset =>
    obtain ⟨id, rfl⟩ := hformat
    obtain rfl := List.eq_nil_of_length_eq_zero hlen
    exact ⟨.setPreset id, rfl, rfl⟩
  | setAudioReactive =>
    obtain ⟨en, rfl⟩ := hformat
    obtain rfl := List.eq_nil_of_length_eq_zero hlen
    obtain ⟨b, rfl⟩ := exists_ofBool en
    exact ⟨.setAudioReactive b, rfl, rfl⟩
  | setAddress =>
    obtain ⟨fix, addr, rfl⟩ := hformat
    obtain rfl := List.eq_nil_of_length_eq_zero hlen
    exact ⟨.setAddress fix addr, rfl, by rw [addressHeader_assoc]; rfl⟩
  | setBpm =>
    obtain ⟨bpm, rfl⟩ := hformat
    obtain rfl := List.eq_nil_of_length_eq_zero hlen
    exact ⟨.setBpm bpm, rfl, rfl⟩
  | beat =>
    obtain rfl := hformat
    obtain ⟨ts, rfl⟩ := exists_timeWords hlen
    exact ⟨.beat ts, rfl, rfl⟩
  | trigger =>
    obtain rfl := hformat
    obtain ⟨ts, rfl⟩ := exists_timeWords hlen
    exact ⟨.trigger ts, rfl, rfl⟩
  | update =>
    obtain rfl := hformat
    obtain ⟨ts, rfl⟩ := exists_timeWords hlen
    exact ⟨.update ts, rfl, rfl⟩
  | start =>
    obtain ⟨mask, rfl⟩ := hformat
    obtain rfl := List.eq_nil_of_length_eq_zero hlen
    exact ⟨.start mask, rfl, rfl⟩
  | stop =>
    obtain ⟨mask, rfl⟩ := hformat
    obtain rfl := List.eq_nil_of_length_eq_zero hlen
    exact ⟨.stop mask, rfl, rfl⟩
  | blackout =>
    obtain rfl := hformat
    obtain rfl := List.eq_nil_of_length_eq_zero hlen
    exact ⟨.blackout, rfl, rfl⟩
  | getStatus =>
    obtain rfl := hformat
    obtain rfl := List.eq_nil_of_length_eq_zero hlen
    exact ⟨.getStatus, rfl, rfl⟩
  | getVolume =>
    obtain rfl := hformat
    obtain rfl := List.eq_nil_of_length_eq_zero hlen
    exact ⟨.getVolume, rfl, rfl⟩

/-- Encoding undoes decoding: the words are the encoding of some command, which is the one read from them. -/
theorem encode_of_decode {ws : List Word} {i : Instr} (hd : decode ws = .ok i) :
    i.wellFormed = true ∧ encode i = ws := by
  cases ws with
  | nil => cases hd
  | cons h ops =>
    obtain ⟨o, hformat, hlen, hops⟩ := decode_cons_eq_ok_iff.1 hd
    obtain ⟨j, hj, hwords⟩ := exists_encode hformat hlen hops
    rw [← hwords, decode_encode hj] at hd
    cases hd
    exact ⟨hj, hwords⟩

end Sys2Proof.Laws

namespace Sys2Proof.Proofs
open Sys2Proof.Laws

/-- Settles O1, by the format of each command's header and operand words (`encode_spec`). -/
theorem decodeOfEncode : Obligations.DecodeOfEncode := fun _ hi => decode_encode hi

/-- Settles O2: accepted words are the encoding of some command, and decoding undoes encoding (O1). -/
theorem encodeOfDecode : Obligations.EncodeOfDecode := fun _ _ hd => encode_of_decode hd

end Sys2Proof.Proofs
end

section
/-! PROOFS. The opcode map, the operand words a header asks for, the worked encodings, and the step that runs a decoded
command (30_encoding.md R100, R110, R111, R126). -/

namespace Sys2Proof.Machine

/-- The HOST agent's step on a complete command is the command's (30_encoding.md R100). -/
theorem hostStep_of_ok {s : State} {i : Instr} (hbuf : s.port.cBuf ≠ []) (hneed : s.port.cNeed = 0)
    (hd : decode s.port.cBuf = .ok i) : hostStep s = exec i s := by
  have hready : s.commandReady = true := by simp [State.commandReady, hbuf, hneed]
  simp only [hostStep, hready, State.fetch, hd, Bool.not_true, Bool.false_eq_true, if_false]

/-- The HOST agent's step on complete words that are no command answers why (30_encoding.md R120). -/
theorem hostStep_of_error {s : State} {e : DecodeError} (hbuf : s.port.cBuf ≠ []) (hneed : s.port.cNeed = 0)
    (hd : decode s.port.cBuf = .error e) : hostStep s = raiseUndecoded e s := by
  have hready : s.commandReady = true := by simp [State.commandReady, hbuf, hneed]
  simp only [hostStep, hready, State.fetch, hd, Bool.not_true, Bool.false_eq_true, if_false]

end Sys2Proof.Machine

namespace Sys2Proof.Proofs
open Sys2Proof.Laws Sys2Proof.Machine

/-- Settles O3: the columns are the map's own values; the other clauses are the header lemmas. -/
theorem headerSelectsRow : Obligations.HeaderSelectsRow :=
  ⟨rfl, mem_allOpcodes, fun _ _ => decodeHeader_eq_ok_iff, fun _ => decodeHeader_unassigned_iff⟩

/-- Settles O4: an illegal header asks for no word, a legal one for those of its row (`operandCount_eq`). -/
theorem operandWordCount : Obligations.OperandWordCount := by
  intro h
  by_cases hno : ∀ o ∈ allOpcodes, h &&& headerMask o ≠ headerMatch o
  · rw [if_pos hno]
    rcases decodeHeader_illegal (h := h) fun o => hno o (mem_allOpcodes o) with he | he
    · exact operandWords_of_error he
    · exact operandWords_of_error he
  · rw [if_neg hno]
    push Not at hno
    obtain ⟨o, -, hs⟩ := hno
    have hop : h.extractLsb' 24 8 = opByte o := opField_of_selects hs
    rw [operandWords_of_ok (decodeHeader_eq_ok_iff.2 hs), hop]
    exact operandCount_eq o h

/-- Settles O6: the examples are evaluated, both ways. -/
theorem workedEncodings : Obligations.WorkedEncodings := by
  unfold Obligations.WorkedEncodings
  decide

/-- Settles O8: the second clause is `hostStep_of_ok` at the state in which the move is taken. -/
theorem stepRunsDecoded : Obligations.StepRunsDecoded := by
  refine ⟨fun _ => rfl, fun s i hmove hbuf hneed hd => ?_⟩
  rw [step, hmove]
  exact hostStep_of_ok (s := s.takeMove) hbuf hneed hd

end Sys2Proof.Proofs
end

section
/-! PROOFS. Illegal encodings (30_encoding.md R120): which words the decoder refuses and how HOST's step answers
them. -/

namespace Sys2Proof.Laws

/-- A command whose header is illegal is refused for it, whatever follows (60_exceptions.md R332). -/
theorem decode_of_header_error {h : Word} {e : DecodeError} (ops : List Word) (he : decodeHeader h = .error e) :
    decode (h :: ops) = .error e := by
  unfold decode
  dsimp only
  rw [he]

/-- A map whose first illegal pair word is `w` is refused for that word (60_exceptions.md R332). -/
theorem decode_illegal_pair {h w : Word} {before after : List Word}
    (hs : h &&& headerMask .setChannels = headerMatch .setChannels)
    (hlen : (before ++ w :: after).length = (field 23 12 h).toNat) (hbefore : ∀ v ∈ before, field 31 24 v = 0#8)
    (hw : field 31 24 w ≠ 0#8) : decode (h :: (before ++ w :: after)) = .error (.nonzeroPairField (info24 w)) := by
  have hcount : (before ++ w :: after).length = operandCount .setChannels h := hlen
  unfold decode
  simp only [decodeHeader_eq_ok_iff.2 hs, hcount, Nat.lt_irrefl, if_false, decodeOperands,
    decodePairs_illegal hbefore hw]

end Sys2Proof.Laws

namespace Sys2Proof.Machine
open Sys2Proof.Laws

/-- The word that arrives at an empty port is a header (30_encoding.md R100, R110). -/
theorem receiveWord_header {s : State} (h : Word) (hempty : s.port.cBuf = []) :
    s.receiveWord h = { s with port := { cBuf := [h], cNeed := BitVec.ofNat 12 (operandWords h) } } := by
  rcases receiveWord_cases s h with ⟨-, e⟩ | ⟨hne, -⟩ | ⟨hne, -⟩
  · exact e
  · exact absurd hempty hne
  · exact absurd hempty hne

/-- A header that asks for no operand word is complete as it arrives (30_encoding.md R110). -/
theorem receiveWord_complete {s : State} {h : Word} (hempty : s.port.cBuf = []) (hwords : operandWords h = 0) :
    (s.receiveWord h).port = { cBuf := [h], cNeed := 0 } := by
  rw [receiveWord_header h hempty, hwords]
  rfl

/-- HOST's step on a complete sequence of words refused for an illegal word answers IllegalCommand and changes nothing
else (30_encoding.md R120). -/
theorem hostStep_answers_illegal {s : State} {ws : List Word} {e : DecodeError} {info : BitVec 24}
    (hport : s.port = { cBuf := ws, cNeed := 0 }) (hws : ws ≠ []) (hd : decode ws = .error e)
    (he : e = .unassignedOpcode info ∨ e = .nonzeroZeroField info ∨ e = .nonzeroPairField info) :
    ∃ t, hostStep s = .next t ∧ AnsweredOnly s t [(0x06#8 ++ info : Word)] := by
  have hstep : hostStep s = raiseUndecoded e s :=
    hostStep_of_error (by rw [hport]; exact hws) (by rw [hport]) (by rw [hport]; exact hd)
  refine ⟨s.refuse .illegalCommand info, ?_, rfl⟩
  rw [hstep]
  rcases he with rfl | rfl | rfl <;> rfl

end Sys2Proof.Machine

namespace Sys2Proof.Proofs
open Sys2Proof.Laws Sys2Proof.Machine

/-- Settles O5: the decoder names the offending word (`decodeHeader_illegal`, `decode_illegal_pair`), and HOST's step
answers it (`hostStep_answers_illegal`). -/
theorem illegalEncodings : Obligations.IllegalEncodings := by
  refine ⟨fun h s hno => ⟨fun hempty => ?_, fun hport => ?_⟩, ?_, ?_⟩
  · rcases decodeHeader_illegal hno with he | he <;>
      exact receiveWord_complete hempty (operandWords_of_error he)
  · rcases decodeHeader_illegal hno with he | he
    · exact hostStep_answers_illegal hport (List.cons_ne_nil _ _) (decode_of_header_error [] he) (.inl rfl)
    · exact hostStep_answers_illegal hport (List.cons_ne_nil _ _) (decode_of_header_error [] he) (.inr (.inl rfl))
  · intro h w before after s hs hport hlen hbefore hw
    exact hostStep_answers_illegal hport (List.cons_ne_nil _ _) (decode_illegal_pair hs hlen hbefore hw)
      (.inr (.inr rfl))
  · intro o
    cases o <;> decide

end Sys2Proof.Proofs
end

section
/-! PROOFS. The command port receives a command word by word, and every command that completes is answered once
(30_encoding.md R100, R112, 10_state.md R47). -/

namespace Sys2Proof.Machine
open Sys2Proof.Laws

/-- A count of words still to come is not zero in the twelve bits of C_NEED. -/
theorem need_ne_zero {n : Nat} (hpos : 0 < n) (hn : n < 2 ^ 12) : BitVec.ofNat 12 n ≠ 0#12 := by
  intro hz
  have hzero := congrArg BitVec.toNat hz
  simp only [BitVec.toNat_ofNat, Nat.mod_eq_of_lt hn] at hzero
  omega

/-- Operand words that arrive while the port expects at least as many are taken one after the other, and the port
expects that many fewer (10_state.md R47). -/
theorem receive_operands (ops : List Word) {s : State} {buf : List Word} {n : Nat} (hbuf : buf ≠ [])
    (hn : n < 2 ^ 12) (hops : ops.length ≤ n) (hport : s.port = { cBuf := buf, cNeed := BitVec.ofNat 12 n }) :
    ops.foldl State.receiveWord s =
      { s with port := { cBuf := buf ++ ops, cNeed := BitVec.ofNat 12 (n - ops.length) } } := by
  induction ops generalizing s buf n with
  | nil => simp [← hport]
  | cons w ops ih =>
    rw [List.length_cons] at hops
    have hneed := need_ne_zero (show 0 < n by omega) hn
    have hless : BitVec.ofNat 12 n - 1 = BitVec.ofNat 12 (n - 1) := by bv_omega
    have hreceive : s.receiveWord w = { s with port := { cBuf := buf ++ [w], cNeed := BitVec.ofNat 12 (n - 1) } } := by
      rcases receiveWord_cases s w with ⟨hempty, -⟩ | ⟨-, hzero, -⟩ | ⟨-, -, e⟩
      · exact absurd ((congrArg Port.cBuf hport).symm.trans hempty) hbuf
      · exact absurd ((congrArg Port.cNeed hport).symm.trans hzero) hneed
      · rw [e, hport, hless]
    have hbuf' : buf ++ [w] ≠ [] := List.append_ne_nil_of_right_ne_nil _ (List.cons_ne_nil _ _)
    rw [List.foldl_cons, hreceive, ih hbuf' (by omega) (by omega) rfl]
    simp [Nat.sub_sub, Nat.add_comm]

/-- A header and some of the operand words it asks for, arriving at an empty port, stand in C_BUF, and C_NEED counts the
words still to come (30_encoding.md R100, R110). -/
theorem receive_command {s : State} {h : Word} {ops : List Word} (hport : s.port = readyPort)
    (hops : ops.length ≤ operandWords h) :
    (h :: ops).foldl State.receiveWord s =
      { s with port := { cBuf := h :: ops, cNeed := BitVec.ofNat 12 (operandWords h - ops.length) } } := by
  rw [List.foldl_cons, receiveWord_header h (congrArg Port.cBuf hport),
    receive_operands ops (List.cons_ne_nil h []) (operandWords_lt h) hops rfl]
  rfl

/-- The encoding of a command is a header and exactly the operand words it asks for. -/
theorem encode_eq_cons {i : Instr} (hi : i.wellFormed = true) :
    ∃ h ops, encode i = h :: ops ∧ ops.length = operandWords h := by
  obtain ⟨h, ops, heq, hformat, hlen, -⟩ := encode_spec hi
  have hd := decodeHeader_eq_ok_iff.2 ((selects_iff_hasFormat _ _).2 hformat)
  exact ⟨h, ops, heq, hlen.trans (operandWords_of_ok hd).symm⟩

/-- While operand words are to come the port is not ready. -/
theorem not_ready_of_need {s : State} {n : Nat} (hpos : 0 < n) (hn : n < 2 ^ 12)
    (hneed : s.port.cNeed = BitVec.ofNat 12 n) : s.commandReady = false := by
  have hne : s.port.cNeed ≠ 0#12 := hneed ▸ need_ne_zero hpos hn
  simp [State.commandReady, hne]

end Sys2Proof.Machine

namespace Sys2Proof.Proofs
open Sys2Proof.Laws Sys2Proof.Machine

/-- Settles O9: `receive_command` for all the words, and for the header with fewer operand words than it asks for. -/
theorem wordsAssemble : Obligations.WordsAssemble := by
  intro s i hi hport
  obtain ⟨h, ops, heq, hlen⟩ := encode_eq_cons hi
  have hall := receive_command hport hlen.le
  rw [hlen, Nat.sub_self] at hall
  rw [heq]
  refine ⟨hall, by rw [hall]; rfl, fun k hk => ?_⟩
  cases k with
  | zero => simp [State.commandReady, hport, readyPort]
  | succ k =>
    have hless : (ops.take k).length < operandWords h := by
      rw [List.length_take]
      rw [List.length_cons] at hk
      omega
    rw [List.take_succ_cons, receive_command hport hless.le]
    have := operandWords_lt h
    exact not_ready_of_need (by omega) (by omega) rfl

end Sys2Proof.Proofs

namespace Sys2Proof.Machine

/-- `t` has one response of a command more than `s`: one word, or the three of a successful GET_STATUS
(30_encoding.md R112, R113). -/
def RespondedOnce (i : Instr) (s t : State) : Prop :=
  ∃ w rest, t.resp = s.resp ++ w :: rest ∧
    (rest = [] ∨ (i = .getStatus ∧ rest.length = 2 ∧ w.extractLsb' 24 8 = 0))

theorem RespondedOnce.of_word {i : Instr} {s t : State} {w : Word} (h : t.resp = s.resp ++ [w]) : RespondedOnce i s t :=
  ⟨w, [], h, .inl rfl⟩

/-- A beat or an update answers one word behind the responses of the state it leaves. -/
theorem respondedOnce_of_render {i : Instr} {s u : State} (h : RenderFrame s u) (data : BitVec 24) :
    RespondedOnce i s (u.respondOk data) :=
  .of_word (by rw [State.respondOk_resp, h.resp])

/-- START answers one word in each of its cases (44_orchestrator.md R303). -/
theorem respondedOnce_start {i : Instr} (mask : BitVec 3) (s : State) : RespondedOnce i s (startResult mask s) := by
  have hasked : (askDevices mask s).resp = s.resp := by rw [(askDevices_frame mask s).1]
  rcases startResult_cases mask s with ⟨-, -, e⟩ | ⟨u, v, hu, hv, he⟩
  · exact .of_word (by rw [e, State.refuse_resp, hasked])
  · have hresp : v.resp = s.resp := by
      rw [hv, (startLoops_frame _ _ _).state]
      rcases hu with ⟨-, rfl⟩ | ⟨-, -, rfl⟩
      · exact hasked
      · exact hasked
    rcases he with ⟨-, e⟩ | ⟨-, e⟩
    · exact .of_word (by rw [e, State.respondOk_resp, hresp])
    · exact .of_word (by rw [e, State.refuse_resp, hresp])

/-- Every command that goes on has responded once. -/
theorem exec_respondedOnce {i : Instr} {s t : State} (h : exec i s = .next t) : RespondedOnce i s t := by
  cases i with
  | setChannel idx val =>
    simp only [exec, execSetChannel, raise] at h
    (repeat' split at h) <;> cases h <;> exact .of_word rfl
  | setChannels pairs =>
    simp only [exec, execSetChannels, raise] at h
    split at h <;> cases h <;> exact .of_word rfl
  | getChannel idx =>
    simp only [exec, execGetChannel, raise] at h
    split at h <;> cases h <;> exact .of_word rfl
  | blackout => cases h; exact .of_word rfl
  | setAll val =>
    simp only [exec, execSetAll, raise] at h
    split at h <;> cases h <;> exact .of_word rfl
  | setPreset id =>
    simp only [exec, execSetPreset, raise] at h
    split at h <;> cases h <;> exact .of_word rfl
  | setAudioReactive en => cases h; exact .of_word rfl
  | setAddress fix addr =>
    simp only [exec, execSetAddress, raise] at h
    (repeat' split at h) <;> cases h <;> exact .of_word rfl
  | getStatus =>
    cases h
    exact ⟨_, _, rfl, .inr ⟨rfl, rfl, BitVec.extractLsb'_append_eq_left⟩⟩
  | setBpm bpm =>
    simp only [exec, execSetBpm, raise] at h
    split at h <;> cases h <;> exact .of_word rfl
  | beat ts =>
    obtain ⟨p, hp, rfl⟩ := answerProcessed_next h
    exact respondedOnce_of_render (onBeat_frame hp).1 _
  | trigger ts =>
    obtain ⟨p, hp, rfl⟩ := answerProcessed_next h
    exact respondedOnce_of_render (trigger_frame hp).1 _
  | update now =>
    obtain ⟨p, hp, rfl⟩ := answerProcessed_next h
    exact respondedOnce_of_render (updateOp_frame hp) _
  | getVolume => cases h; exact .of_word rfl
  | start mask => cases h; exact respondedOnce_start mask s
  | stop mask => cases h; exact .of_word rfl

end Sys2Proof.Machine

namespace Sys2Proof.Proofs
open Sys2Proof.Machine

/-- Settles O11: each command's response is `exec_respondedOnce`; that no other move but the reset writes RESP is
ownership (`step_owned`). -/
theorem oneResponsePerCommand : Obligations.OneResponsePerCommand :=
  ⟨fun _ _ _ h => ⟨(exec_frame h).port, exec_respondedOnce h⟩,
    fun _ _ h hhost hreset => (step_owned h hreset).resp hhost⟩

end Sys2Proof.Proofs
end

section
/-! PROOFS. The assembler (30_encoding.md R121, R125): which command each form of line reads as. Each line is cut into a
mnemonic and operands (`assembleLine_operands`); what remains is how one operand is read. -/

namespace Sys2Proof.Machine

/-! ## Lines -/

theorem joined_singleton (x : List Char) : joined [x] = x := by simp [joined, List.intercalate]

/-- A line of a mnemonic and one operand, whose beginning `pre` is written with the mnemonic. -/
theorem assembleLine_one {c : Cfg} {head x : String} (m pre : List Char) (hhead : head.toList = m ++ ' ' :: pre)
    (hm : isOperand m = true) (hx : isOperand (pre ++ x.toList) = true) :
    assembleLine c (head ++ x) = assembleCommand c m [pre ++ x.toList] := by
  refine assembleLine_operands hm (by simpa using hx) ?_
  rw [String.toList_append, hhead, joined_singleton, List.append_assoc, List.cons_append]

/-- A line of a mnemonic and two operands, the beginning `pre` of the first written with the mnemonic. -/
theorem assembleLine_two {c : Cfg} {head x y : String} (m pre : List Char) (hhead : head.toList = m ++ ' ' :: pre)
    (hm : isOperand m = true) (hx : isOperand (pre ++ x.toList) = true) (hy : isOperand y.toList = true) :
    assembleLine c (head ++ x ++ ", " ++ y) = assembleCommand c m [pre ++ x.toList, y.toList] := by
  have hcomma : (", " : String).toList = [',', ' '] := rfl
  refine assembleLine_operands hm (by simpa using ⟨hx, hy⟩) ?_
  rw [joined_cons_cons, joined_singleton]
  simp only [String.toList_append, hhead, hcomma, List.append_assoc, List.cons_append, List.nil_append]

/-- A comment is no part of the line (30_encoding.md R125). -/
theorem assembleLine_comment (c : Cfg) {line : String} (comment : String) (hline : ';' ∉ line.toList) :
    assembleLine c (line ++ ";" ++ comment) = assembleLine c line := by
  have hfree : ∀ ch ∈ line.toList, (ch != ';') = true := fun ch hch => by
    rw [bne_iff_ne]
    rintro rfl
    exact hline hch
  have hcut : (line ++ ";" ++ comment).toList.takeWhile (fun ch => ch != ';') = line.toList := by
    have hsemi : (";" : String).toList = [';'] := rfl
    rw [String.toList_append, String.toList_append, hsemi, List.append_assoc, List.takeWhile_append_of_pos hfree]
    simp
  have hall : line.toList.takeWhile (fun ch => ch != ';') = line.toList := List.takeWhile_eq_self_iff.2 hfree
  unfold assembleLine
  rw [hcut, hall]

/-! ## What the assembler accepts can be carried by command words -/

/-- A reading gives a well-formed command, if any. -/
def Carries (o : Option Instr) : Prop := ∀ i, o = some i → i.wellFormed = true

theorem carries_none : Carries none := fun _ h => by cases h

theorem carries_some {i : Instr} (hi : i.wellFormed = true) : Carries (some i) := fun _ h => by
  cases h
  exact hi

theorem carries_map {α : Type} {f : α → Instr} {o : Option α} (h : ∀ a, o = some a → (f a).wellFormed = true) :
    Carries (o.map f) := by
  cases o with
  | none => exact carries_none
  | some a => exact carries_some (h a rfl)

theorem carries_ite {p : Prop} [Decidable p] {a b : Option Instr} (ha : Carries a) (hb : Carries b) :
    Carries (if p then a else b) := by
  split
  · exact ha
  · exact hb

theorem length_of_mapM {α β : Type} {f : α → Option β} {l : List α} {l' : List β} (h : l.mapM f = some l') :
    l'.length = l.length := by
  induction l generalizing l' with
  | nil =>
    cases h
    rfl
  | cons a l ih =>
    simp only [List.mapM_cons, Option.bind_eq_bind, Option.bind_eq_some_iff] at h
    obtain ⟨b, -, bs, hbs, h⟩ := h
    cases h
    rw [List.length_cons, List.length_cons, ih hbs]

/-- A map the assembler reads has as many pairs as operands, at most 4095 (30_encoding.md R121). -/
theorem readPairs_length {ops : List (List Char)} {pairs : List Pair} (h : readPairs ops = some pairs) :
    pairs.length ≤ 4095 := by
  unfold readPairs at h
  split at h
  · cases h
  · have hlen := length_of_mapM h
    omega

/-- Only a map's length has to be checked; every other command is well-formed as it is. -/
theorem assembleCommand_carries (c : Cfg) (m : List Char) (ops : List (List Char)) :
    Carries (assembleCommand c m ops) := by
  refine carries_ite (carries_map fun _ h => decide_eq_true (readPairs_length h)) ?_
  rcases ops with _ | ⟨x, _ | ⟨y, _ | _⟩⟩
  · iterate 7 refine carries_ite (carries_some rfl) ?_
    exact carries_none
  · iterate 10 refine carries_ite (carries_map fun _ _ => rfl) ?_
    exact carries_none
  · refine carries_ite ?_ (carries_ite ?_ carries_none)
    · cases readField 12 x <;> cases readValue y
      case some.some => exact carries_some rfl
      all_goals exact carries_none
    · cases readFixture x <;> cases readField 12 y
      case some.some => exact carries_some rfl
      all_goals exact carries_none
  · exact carries_none

theorem assembleLine_carries (c : Cfg) (line : String) : Carries (assembleLine c line) := assembleCommand_carries c _ _

/-! ## Pairs of a map -/

/-- The operand `<idx>=<val>`. -/
def pairText (p : Int × Int) : String := toString p.1 ++ "=" ++ toString p.2

/-- Both numbers of a pair fit their fields (30_encoding.md R121). -/
def pairFits (p : Int × Int) : Bool := 0 ≤ p.1 ∧ p.1 < 4096 ∧ -2048 ≤ p.2 ∧ p.2 ≤ 2047

theorem pairFits_iff {p : Int × Int} :
    pairFits p = true ↔ 0 ≤ p.1 ∧ p.1 < 4096 ∧ -2048 ≤ p.2 ∧ p.2 ≤ 2047 := decide_eq_true_iff

/-- The fields of a pair are read where the pair fits. -/
theorem fields_of_pair (p : Int × Int) :
    (fieldOf? 12 p.1).bind (fun idx => (valueOf? p.2).map fun val => (⟨idx, val⟩ : Pair)) =
      if pairFits p then some ⟨BitVec.ofInt 12 p.1, BitVec.ofInt 12 p.2⟩ else none := by
  unfold fieldOf? valueOf?
  by_cases hidx : 0 ≤ p.1 ∧ p.1 < 2 ^ 12
  · by_cases hval : -2048 ≤ p.2 ∧ p.2 ≤ 2047
    · rw [if_pos hidx, if_pos hval, if_pos (pairFits_iff.2 ⟨hidx.1, hidx.2, hval.1, hval.2⟩)]
      rfl
    · rw [if_pos hidx, if_neg hval, if_neg fun h => hval (pairFits_iff.1 h).2.2]
      rfl
  · rw [if_neg hidx, if_neg fun h => hidx ⟨(pairFits_iff.1 h).1, (pairFits_iff.1 h).2.1⟩]
    rfl

/-- The pair two numbers that fit stand for. -/
def pairOf (p : Int × Int) : Pair := ⟨BitVec.ofInt 12 p.1, BitVec.ofInt 12 p.2⟩

theorem toList_pairText (p : Int × Int) :
    (pairText p).toList = (toString p.1).toList ++ '=' :: (toString p.2).toList := by
  have heq : ("=" : String).toList = ['='] := rfl
  rw [pairText, String.toList_append, String.toList_append, heq, List.append_assoc]
  rfl

theorem isOperand_pairText (p : Int × Int) : isOperand (pairText p).toList = true := by
  rw [pairText, String.toList_append, String.toList_append]
  exact isOperand_append (isOperand_append (isOperand_toString _) (by decide)) (isOperand_toString _)

theorem not_mem_toString {v : Int} {ch : Char} (hminus : ch ≠ '-') (hdigit : ch.isDigit = false) :
    ch ∉ (toString v).toList := by
  intro hch
  rcases mem_toString_int hch with h | h
  · exact hminus h
  · rw [hdigit] at h
    cases h

theorem trimBlanks_toString (v : Int) : trimBlanks (toString v).toList = (toString v).toList :=
  trimBlanks_operand fun ch hch => ((isOperand_iff.1 (isOperand_toString v)).2 ch hch).1

/-- A pair of numbers is read exactly where both fit (30_encoding.md R121). -/
theorem readPair_pairText (p : Int × Int) :
    readPair (pairText p).toList = if pairFits p then some (pairOf p) else none := by
  have hidx : '=' ∉ (toString p.1).toList := not_mem_toString (by decide) (by decide)
  have hval : '=' ∉ (toString p.2).toList := not_mem_toString (by decide) (by decide)
  have hread : readPair (pairText p).toList =
      (fieldOf? 12 p.1).bind fun idx => (valueOf? p.2).map fun val => ⟨idx, val⟩ := by
    unfold readPair
    rw [toList_pairText, splitAtChar_append hidx, splitAtChar_free hval]
    simp only [trimBlanks_toString, readField_toString, readValue_toString]
    cases fieldOf? 12 p.1 <;> cases valueOf? p.2 <;> rfl
  rw [hread]
  exact fields_of_pair p

/-- Reading each operand succeeds as a whole exactly where each is good. -/
theorem mapM_ite {α β : Type} (good : α → Bool) (f : α → β) (l : List α) :
    l.mapM (fun a => if good a then some (f a) else none) = if l.all good then some (l.map f) else none := by
  induction l with
  | nil => rfl
  | cons a l ih =>
    rw [List.mapM_cons, ih, List.all_cons, List.map_cons]
    cases good a <;> cases l.all good <;> rfl

/-- A map is read exactly where it has at most 4095 pairs and each fits (30_encoding.md R121). -/
theorem readPairs_pairTexts (pairs : List (Int × Int)) :
    readPairs (pairs.map fun p => (pairText p).toList) =
      if pairs.length ≤ 4095 ∧ pairs.all pairFits then some (pairs.map pairOf) else none := by
  have hread : readPair ∘ (fun p => (pairText p).toList) = fun p => if pairFits p then some (pairOf p) else none :=
    funext fun p => readPair_pairText p
  unfold readPairs
  rw [List.length_map, List.mapM_map, hread, mapM_ite]
  by_cases hlen : pairs.length ≤ 4095
  · rw [if_neg (by omega)]
    simp only [hlen, true_and]
  · rw [if_pos (by omega), if_neg fun h => hlen h.1]

/-! ## Presets, loops and fixtures -/

theorem readFixture_number (cs : List Char) : readFixture ('#' :: cs) = readField 4 cs := rfl

/-- A preset's text that is no number is looked up among the names of the table. -/
theorem readPreset_name (c : Cfg) {cs : List Char} (h : cs.head? ≠ some '#') :
    readPreset c cs =
      ((c.presetTable.map (·.name.toList)).idxOf? cs).bind fun i =>
        if i < 256 then some (BitVec.ofNat 8 i) else none := by
  unfold readPreset
  split
  · exact absurd rfl h
  · cases (c.presetTable.map (·.name.toList)).idxOf? cs <;> rfl

/-- No number's text is a name with a letter in it. -/
theorem toString_beq_name {v : Int} {name : List Char} {ch : Char} (hch : ch ∈ name) (hminus : ch ≠ '-')
    (hdigit : ch.isDigit = false) : ((toString v).toList == name) = false := by
  rw [beq_eq_false_iff_ne]
  intro h
  exact not_mem_toString hminus hdigit (h ▸ hch)

theorem readLoop_toString (v : Int) : readLoop (toString v).toList = none := by
  have hcapture : ((toString v).toList == "capture".toList) = false :=
    toString_beq_name (ch := 'c') (by decide) (by decide) (by decide)
  have htick : ((toString v).toList == "tick".toList) = false :=
    toString_beq_name (ch := 't') (by decide) (by decide) (by decide)
  have htx : ((toString v).toList == "tx".toList) = false :=
    toString_beq_name (ch := 't') (by decide) (by decide) (by decide)
  simp only [readLoop, hcapture, htick, htx, Bool.false_eq_true, if_false]

/-- A number of loops is read exactly where it fits MASK; no number is a loop's name (30_encoding.md R121). -/
theorem readLoops_toString (v : Int) : readLoops (toString v).toList = fieldOf? 3 v := by
  have hbar : '|' ∉ (toString v).toList := not_mem_toString (by decide) (by decide)
  unfold readLoops
  rw [readField_toString, splitAtChar_free hbar]
  simp only [List.map_cons, List.map_nil, trimBlanks_toString, List.mapM_cons, readLoop_toString]
  cases fieldOf? 3 v <;> rfl

/-! ## The forms of line -/

section Forms
variable (c : Cfg)

theorem assembleCommand_setChannel (x y : List Char) :
    assembleCommand c "set_channel".toList [x, y] =
      (readField 12 x).bind fun idx => (readValue y).map fun val => .setChannel idx val := by
  change (match readField 12 x, readValue y with
    | some idx, some val => some (Instr.setChannel idx val)
    | _, _ => none) = _
  cases readField 12 x <;> cases readValue y <;> rfl

theorem assembleCommand_setAddress (x y : List Char) :
    assembleCommand c "set_address".toList [x, y] =
      (readFixture x).bind fun fix => (readField 12 y).map fun addr => .setAddress fix addr := by
  change (match readFixture x, readField 12 y with
    | some fix, some addr => some (Instr.setAddress fix addr)
    | _, _ => none) = _
  cases readFixture x <;> cases readField 12 y <;> rfl

theorem assembleLine_setChannel (i v : Int) :
    assembleLine c ("set_channel " ++ toString i ++ ", " ++ toString v) =
      (fieldOf? 12 i).bind fun x => (valueOf? v).map fun y => .setChannel x y := by
  rw [assembleLine_two "set_channel".toList [] rfl (by decide) (isOperand_toString i) (isOperand_toString v),
    assembleCommand_setChannel, List.nil_append, readField_toString, readValue_toString]

theorem assembleLine_setAddress (f a : Int) :
    assembleLine c ("set_address #" ++ toString f ++ ", " ++ toString a) =
      (fieldOf? 4 f).bind fun x => (fieldOf? 12 a).map fun y => .setAddress x y := by
  rw [assembleLine_two "set_address".toList ['#'] rfl (by decide) (isOperand_append (by decide) (isOperand_toString f))
    (isOperand_toString a), assembleCommand_setAddress, List.singleton_append, readFixture_number, readField_toString,
    readField_toString]

/-- The named fixtures are 0, 1 and 2 (30_encoding.md R125). -/
theorem assembleLine_setAddress_named (a : Int) {name : String} {fix : BitVec 4} (hname : isOperand name.toList = true)
    (hfix : readFixture name.toList = some fix) :
    assembleLine c ("set_address " ++ name ++ ", " ++ toString a) = (fieldOf? 12 a).map (.setAddress fix) := by
  rw [assembleLine_two "set_address".toList [] rfl (by decide) hname (isOperand_toString a), assembleCommand_setAddress,
    List.nil_append, hfix, readField_toString]
  rfl

/-- A line of a mnemonic and one number is assembled from the number's text. -/
theorem assembleLine_number {head : String} (m : List Char) (v : Int) (hhead : head.toList = m ++ [' '])
    (hm : isOperand m = true) : assembleLine c (head ++ toString v) = assembleCommand c m [(toString v).toList] :=
  assembleLine_one m [] hhead hm (isOperand_toString v)

/-- The commands of one number, each read where the number fits its field (30_encoding.md R121). -/
theorem assembleLine_numbers (v : Int) :
    assembleLine c ("get_channel " ++ toString v) = (fieldOf? 12 v).map .getChannel ∧
      assembleLine c ("set_all " ++ toString v) = (valueOf? v).map .setAll ∧
      assembleLine c ("set_preset #" ++ toString v) = (fieldOf? 8 v).map .setPreset ∧
      assembleLine c ("set_audio_reactive " ++ toString v) =
        (fieldOf? 1 v).map (fun b => .setAudioReactive (b == 1)) ∧
      assembleLine c ("set_bpm " ++ toString v) = (fieldOf? 16 v).map .setBpm ∧
      assembleLine c ("beat " ++ toString v) = (fieldOf? 64 v).map .beat ∧
      assembleLine c ("trigger " ++ toString v) = (fieldOf? 64 v).map .trigger ∧
      assembleLine c ("update " ++ toString v) = (fieldOf? 64 v).map .update ∧
      assembleLine c ("start " ++ toString v) = (fieldOf? 3 v).map .start ∧
      assembleLine c ("stop " ++ toString v) = (fieldOf? 3 v).map .stop := by
  refine ⟨?_, ?_, ?_, ?_, ?_, ?_, ?_, ?_, ?_, ?_⟩
  · rw [assembleLine_number c "get_channel".toList v rfl (by decide), ← readField_toString]
    rfl
  · rw [assembleLine_number c "set_all".toList v rfl (by decide), ← readValue_toString]
    rfl
  · have hoperand := isOperand_append (a := ['#']) (by decide) (isOperand_toString v)
    rw [assembleLine_one "set_preset".toList ['#'] rfl (by decide) hoperand,
      ← readField_toString]
    rfl
  · rw [assembleLine_number c "set_audio_reactive".toList v rfl (by decide), ← readField_toString]
    exact Option.map_map Instr.setAudioReactive (fun b => b == 1) _
  · rw [assembleLine_number c "set_bpm".toList v rfl (by decide), ← readField_toString]
    rfl
  · rw [assembleLine_number c "beat".toList v rfl (by decide), ← readField_toString]
    rfl
  · rw [assembleLine_number c "trigger".toList v rfl (by decide), ← readField_toString]
    rfl
  · rw [assembleLine_number c "update".toList v rfl (by decide), ← readField_toString]
    rfl
  · rw [assembleLine_number c "start".toList v rfl (by decide), ← readLoops_toString]
    rfl
  · rw [assembleLine_number c "stop".toList v rfl (by decide), ← readLoops_toString]
    rfl

theorem assembleLine_hexadecimal (n : Nat) :
    assembleLine c ("get_channel 0x" ++ String.ofList (Nat.toDigits 16 n)) = (fieldOf? 12 n).map .getChannel := by
  have hdigits : (String.ofList (Nat.toDigits 16 n)).toList = Nat.toDigits 16 n := String.toList_ofList
  rw [assembleLine_one "get_channel".toList ['0', 'x'] rfl (by decide) (by rw [hdigits]; exact isOperand_hexadecimal n),
    hdigits, ← readField_hexadecimal]
  rfl

/-- A list of loops is read as its mask (30_encoding.md R125). -/
theorem assembleLine_loops {names : String} {mask : BitVec 3} (hnames : isOperand names.toList = true)
    (hmask : readLoops names.toList = some mask) :
    assembleLine c ("start " ++ names) = some (.start mask) ∧
      assembleLine c ("stop " ++ names) = some (.stop mask) := by
  constructor
  · rw [assembleLine_one "start".toList [] rfl (by decide) hnames]
    exact congrArg (Option.map Instr.start) hmask
  · rw [assembleLine_one "stop".toList [] rfl (by decide) hnames]
    exact congrArg (Option.map Instr.stop) hmask

/-- A map's line is read exactly where it has at most 4095 pairs and each fits (30_encoding.md R121). -/
theorem assembleLine_setChannels (pairs : List (Int × Int)) :
    assembleLine c ("set_channels " ++ ", ".intercalate (pairs.map pairText)) =
      if pairs.length ≤ 4095 ∧ pairs.all pairFits then some (.setChannels (pairs.map pairOf)) else none := by
  have htexts : (pairs.map pairText).map String.toList = pairs.map fun p => (pairText p).toList := List.map_map
  have hoperands : ∀ o ∈ pairs.map (fun p => (pairText p).toList), isOperand o = true := by
    intro o ho
    obtain ⟨p, -, rfl⟩ := List.mem_map.1 ho
    exact isOperand_pairText p
  have hline : ("set_channels " ++ ", ".intercalate (pairs.map pairText)).toList =
      "set_channels".toList ++ ' ' :: joined (pairs.map fun p => (pairText p).toList) := by
    rw [String.toList_append, String.toList_intercalate, htexts]
    rfl
  have hcommand : ∀ ops, assembleCommand c "set_channels".toList ops = (readPairs ops).map .setChannels := fun _ => rfl
  rw [assembleLine_operands (by decide) hoperands hline, hcommand, readPairs_pairTexts]
  split <;> rfl

/-- A preset is read by its name where the table has it (30_encoding.md R125). -/
theorem assembleLine_setPreset_named {name : String} (hname : isOperand name.toList = true)
    (hhash : name.toList.head? ≠ some '#') :
    assembleLine c ("set_preset " ++ name) =
      (((c.presetTable.map (·.name.toList)).idxOf? name.toList).bind fun i =>
        if i < 256 then some (BitVec.ofNat 8 i) else none).map .setPreset := by
  rw [assembleLine_one "set_preset".toList [] rfl (by decide) hname, ← readPreset_name c hhash]
  rfl

/-- The first entry of a name is the one its text finds. -/
theorem idxOf?_name {name : String} {k : Nat} {d : Descriptor} (hk : c.presetTable[k]? = some d) (hd : d.name = name)
    (hfirst : ∀ j e, j < k → c.presetTable[j]? = some e → e.name ≠ name) :
    (c.presetTable.map (·.name.toList)).idxOf? name.toList = some k := by
  obtain ⟨hlt, hentry⟩ := List.getElem?_eq_some_iff.1 hk
  rw [List.idxOf?_eq_some_iff]
  refine ⟨by rwa [List.length_map], by rw [List.getElem_map, hentry, hd], fun j hj => ?_⟩
  rw [List.getElem_map, String.toList_inj]
  exact hfirst j _ hj (List.getElem?_eq_getElem (hj.trans hlt))

theorem idxOf?_no_name {name : String} (hno : ∀ d ∈ c.presetTable, d.name ≠ name) :
    (c.presetTable.map (·.name.toList)).idxOf? name.toList = none := by
  rw [List.idxOf?_eq_none_iff, List.mem_map]
  rintro ⟨d, hd, hname⟩
  exact hno d hd (String.toList_inj.1 hname)

/-- The commands without operands and the pseudo-instructions (30_encoding.md R125). -/
theorem assembleLine_words :
    assembleLine c "blackout" = some .blackout ∧ assembleLine c "get_status" = some .getStatus ∧
      assembleLine c "get_volume" = some .getVolume ∧ assembleLine c "start_all" = some (.start 7) ∧
      assembleLine c "stop_all" = some (.stop 7) ∧ assembleLine c "audio_on" = some (.setAudioReactive true) ∧
      assembleLine c "audio_off" = some (.setAudioReactive false) :=
  ⟨assembleLine_alone (by decide) rfl, assembleLine_alone (by decide) rfl, assembleLine_alone (by decide) rfl,
    assembleLine_alone (by decide) rfl, assembleLine_alone (by decide) rfl, assembleLine_alone (by decide) rfl,
    assembleLine_alone (by decide) rfl⟩

end Forms

end Sys2Proof.Machine

namespace Sys2Proof.Proofs
open Sys2Proof.Machine

/-- Settles O7, form by form: what each line is cut into and how its operands are read. -/
theorem assemblerReadsLines : Obligations.AssemblerReadsLines := by
  intro c
  refine ⟨assembleLine_carries c, fun _ => assembleLine_comment c,
    assembleLine_setChannel c, fun pairs => ?_, assembleLine_numbers c, assembleLine_hexadecimal c,
    assembleLine_setAddress c, fun a p hp => ?_, fun p hp => ?_, fun name hname hhash => ⟨?_, ?_⟩, assembleLine_words c⟩
  · have hline := assembleLine_setChannels c pairs
    simp only [List.all_eq_true, pairFits_iff] at hline
    exact ⟨fun h => hline.trans (if_pos h), fun h => hline.trans (if_neg h)⟩
  · have hnames : ∀ p ∈ ([("panel_a", 0), ("panel_b", 1), ("bar", 2)] : List (String × BitVec 4)),
        isOperand p.1.toList = true ∧ readFixture p.1.toList = some p.2 := by decide
    obtain ⟨hname, hfix⟩ := hnames p hp
    exact assembleLine_setAddress_named c a hname hfix
  · have hnames : ∀ p ∈ ([("capture", 1), ("tick", 2), ("tx", 4), ("capture|tick", 3), ("capture|tx", 5),
        ("tick|tx", 6), ("capture|tick|tx", 7)] : List (String × BitVec 3)),
        isOperand p.1.toList = true ∧ readLoops p.1.toList = some p.2 := by decide
    obtain ⟨hname, hmask⟩ := hnames p hp
    exact assembleLine_loops c hname hmask
  · intro k d hk hd hfirst hlt
    rw [assembleLine_setPreset_named c hname hhash, idxOf?_name c hk hd hfirst, Option.bind_some, if_pos hlt]
    rfl
  · intro hno
    rw [assembleLine_setPreset_named c hname hhash, idxOf?_no_name c hno]
    rfl

end Sys2Proof.Proofs
end

section
/-! PROOFS. The beat clock over a run (40_beat_detector.md R148 to R150): PUSH_FRAME alone writes D_LAST_BEAT, and only
past the refractory interval; every other move leaves it (`step_owned`). -/

namespace Sys2Proof.Machine

/-! ## How the beat clock moves -/

/-- From `d` to `e` the beat clock stays valid, and its last beat is the same or more than `gap` microseconds later. -/
def ClockAdvances (gap : Nat) (d e : Detector) : Prop :=
  e.lbValid = true ∧ (e.lastBeat = d.lastBeat ∨ d.lastBeat.toNat + gap < e.lastBeat.toNat)

theorem ClockAdvances.of_kept {gap : Nat} {d e : Detector} (hv : d.lbValid = true) (hvalid : e.lbValid = d.lbValid)
    (hbeat : e.lastBeat = d.lastBeat) : ClockAdvances gap d e :=
  ⟨hvalid.trans hv, .inl hbeat⟩

/-- Gaps add up, so two advances lie at least as far apart as one. -/
theorem ClockAdvances.trans {gap : Nat} {d e f : Detector} (hde : ClockAdvances gap d e) (hef : ClockAdvances gap e f) :
    ClockAdvances gap d f := by
  obtain ⟨-, hde⟩ := hde
  obtain ⟨hv, hef⟩ := hef
  refine ⟨hv, ?_⟩
  rcases hef with hsame | hlater
  · rwa [hsame]
  · rcases hde with hsame | hlater'
    · rw [← hsame]
      exact .inr hlater
    · exact .inr (by omega)

/-! ## PUSH_FRAME and the capture agent -/

/-- The aligned timestamp is not before the capture time: the offset is non-negative, and a frame is far too short for
the sum to wrap (40_beat_detector.md R149, R150). -/
theorem le_alignedTime {tCap : Time} {frame : List Sample} (ht : tCap.toNat < 2 ^ 63) (hlen : frame.length ≤ 65536) :
    tCap.toNat ≤ (alignedTime tCap frame).toNat := by
  have hpeak : peakIndex frame ≤ frame.length := List.findIdx_le_length
  have hsum : (alignedTime tCap frame).toNat = tCap.toNat + peakIndex frame * 1000000 / 44100 :=
    later_toNat (by simp only [microsPerSecond, sampleRate]; omega)
  omega

/-- PUSH_FRAME moves a valid beat clock by more than the refractory interval or not at all (40_beat_detector.md R148,
R150). -/
theorem processFrame_clock {c : Cfg} {m : List Magnitude} {frame : List Sample} {tCap : Time} {d : Detector}
    (hv : d.lbValid = true) (ht : tCap.toNat < 2 ^ 63) (hlen : frame.length ≤ 65536) :
    ClockAdvances c.refractoryUs d (processFrame c m frame tCap d).1 := by
  rcases processFrame_cases c m frame tCap d with ⟨-, -, hbeat, hvalid⟩ | ⟨hfires, -, hbeat, hvalid⟩
  · exact .of_kept hv hvalid hbeat
  · obtain ⟨-, -, hnone | hgap⟩ := fires_iff.1 hfires
    · exact Bool.noConfusion (hv.symm.trans hnone)
    · have hle := le_alignedTime ht hlen
      refine ⟨hvalid, .inr ?_⟩
      rw [hbeat]
      omega

/-- An item the capture loop takes was held first, and is due. -/
theorem nextItem?_due {s : State} {it : AudioItem} (h : nextItem? s = some it) : itemDue s.time it = true := by
  unfold nextItem? at h
  split at h
  · cases h
  · split at h
    · cases h
      assumption
    · cases h

/-- A due item, taken, moves the beat clock as PUSH_FRAME does; a read failure does not move it. -/
theorem takeItem_clock {s : State} {it : AudioItem} (hcfg : s.cfg.Wf) (ht : s.time.toNat < 2 ^ 63)
    (hv : s.det.lbValid = true) (hdue : itemDue s.time it = true) :
    ClockAdvances s.cfg.refractoryUs s.det (takeItem it s).det := by
  cases it with
  | frame tCap frame =>
    have hcaptured : tCap.toNat ≤ s.time.toNat := of_decide_eq_true hdue
    simp only [takeItem, pushFrame]
    split
    · rename_i hlen
      rw [storeResult_det]
      exact processFrame_clock hv (by omega) (hlen.trans_le hcfg.frame_range.2)
    · exact .of_kept hv rfl rfl
  | fail =>
    simp only [takeItem]
    rcases readFail_cases s with ⟨-, e⟩ | ⟨-, e⟩ <;> rw [e] <;> exact .of_kept hv rfl rfl

theorem captureStep_clock {s t : State} (hcfg : s.cfg.Wf) (ht : s.time.toNat < 2 ^ 63) (hv : s.det.lbValid = true)
    (h : captureStep s = .next t) : ClockAdvances s.cfg.refractoryUs s.det t.det := by
  rcases captureStep_next h with ⟨-, p, hp, rfl⟩ | ⟨-, rfl⟩ | ⟨-, -, -, rfl⟩ | ⟨-, -, -, it, hit, rfl⟩
  · have hdet : p.2.det = s.det := (onBeat_frame hp).1.det
    rw [hdet]
    exact .of_kept hv rfl rfl
  · exact .of_kept hv rfl rfl
  · exact .of_kept hv rfl rfl
  · have hdue : itemDue s.time it = true := nextItem?_due hit
    exact takeItem_clock (s := popAudio s) hcfg ht hv hdue

/-! ## Steps and runs -/

/-- Every step but the reset moves a valid beat clock by more than the refractory interval or not at all. -/
theorem step_clock {s t : State} (hcfg : s.cfg.Wf) (ht : s.time.toNat < 2 ^ 63) (hv : s.det.lbValid = true)
    (hm : s.nextMove ≠ .reset) (h : step s = .next t) : ClockAdvances s.cfg.refractoryUs s.det t.det := by
  by_cases hcapture : s.nextMove = .capture
  · have hstep : captureStep s.takeMove = .next t := by simpa [step, hcapture, perform] using h
    exact captureStep_clock (s := s.takeMove) hcfg ht hv hstep
  · rcases (step_owned h hm).det hcapture with e | ⟨-, e⟩ <;> rw [e] <;> exact .of_kept hv rfl rfl

/-- TIME stays within the premise of 93_implementation_defined.md U13. -/
theorem step_time_lt {s t : State} (ht : s.time.toNat < 2 ^ 63) (hm : s.nextMove ≠ .reset) (h : step s = .next t) :
    t.time.toNat < 2 ^ 63 := by
  by_cases hsame : t.time = s.time
  · rwa [hsame]
  · obtain ⟨_, -, -, -, hlt, -⟩ := (Proofs.timeAdvances.1 s t h hm).2 hsame
    exact hlt

/-- What holds at every state of a run: the configuration is the first one, TIME is within its premise, and the beat
clock moved as `ClockAdvances` says. -/
theorem RunsTo.clock {s t : State} (hcfg : s.cfg.Wf) (ht : s.time.toNat < 2 ^ 63) (hv : s.det.lbValid = true)
    (hrun : RunsTo s t) :
    t.cfg = s.cfg ∧ t.time.toNat < 2 ^ 63 ∧ ClockAdvances s.cfg.refractoryUs s.det t.det := by
  induction hrun with
  | refl => exact ⟨rfl, ht, .of_kept hv rfl rfl⟩
  | @tail u v _ hm hstep ih =>
    obtain ⟨hsame, htime, hclock⟩ := ih
    have hnext := step_clock (hsame ▸ hcfg) htime hclock.1 hm hstep
    rw [hsame] at hnext
    exact ⟨((step_owned hstep hm).cfg).trans hsame, step_time_lt htime hm hstep, hclock.trans hnext⟩

end Sys2Proof.Machine

namespace Sys2Proof.Proofs
open Sys2Proof.Machine

/-- Settles O48, by induction on the run (`RunsTo.clock`) with the step lemma `step_clock`. -/
theorem refractoryInterval : Obligations.RefractoryInterval :=
  fun _ _ hcfg ht hrun hv => (hrun.clock hcfg ht hv).2.2

end Sys2Proof.Proofs
end

section
/-! PROOFS. The adaptive threshold (40_beat_detector.md R147): the model's sort is the library's insertion sort, so it
gives the one ascending arrangement of the history. -/

namespace Sys2Proof.Machine

/-! ## Sorting -/

theorem insertAscending_eq (x : Nat) (l : List Nat) : insertAscending x l = l.orderedInsert (· ≤ ·) x := by
  induction l with
  | nil => rfl
  | cons y ys ih => rw [insertAscending, List.orderedInsert_cons, ih]

theorem sortAscending_eq (l : List Nat) : sortAscending l = l.insertionSort (· ≤ ·) := by
  induction l with
  | nil => rfl
  | cons x xs ih =>
    calc sortAscending (x :: xs) = insertAscending x (sortAscending xs) := rfl
      _ = (x :: xs).insertionSort (· ≤ ·) := by rw [ih, insertAscending_eq, List.insertionSort_cons]

/-- An ascending arrangement of a list is the sorted list. -/
theorem sortAscending_eq_of_perm {l xs : List Nat} (hperm : l.Perm xs) (hsorted : l.Pairwise (· ≤ ·)) :
    sortAscending xs = l := by
  rw [sortAscending_eq]
  exact ((List.perm_insertionSort _ xs).trans hperm.symm).eq_of_pairwise' (List.pairwise_insertionSort _ xs) hsorted

/-! ## STAT(H) -/

section Median
variable {l xs : List Nat} (hperm : l.Perm xs) (hsorted : l.Pairwise (· ≤ ·))
include hperm hsorted

/-- The median of an odd number of entries is the middle one. -/
theorem median_odd (hodd : xs.length % 2 = 1) : median xs = l.getD ((xs.length - 1) / 2) 0 := by
  rw [← hperm.length_eq] at hodd ⊢
  simp only [median, sortAscending_eq_of_perm hperm hsorted, hodd, if_true]

/-- The median of an even number of entries is the floored mean of the two middle ones. -/
theorem median_even (heven : xs.length % 2 = 0) :
    median xs = (l.getD (xs.length / 2 - 1) 0 + l.getD (xs.length / 2) 0) / 2 := by
  rw [← hperm.length_eq] at heven ⊢
  simp only [median, sortAscending_eq_of_perm hperm hsorted, heven, zero_ne_one, if_false]

end Median

theorem threshold_mean {c : Cfg} (hstat : c.threshStat = .mean) (h : List (BitVec 48)) :
    threshold c h = mean (h.map (·.toNat)) * c.threshMultQ8 / 256 + c.threshFloor := by
  simp only [threshold, historyStat, hstat]

theorem threshold_median {c : Cfg} (hstat : c.threshStat = .median) (h : List (BitVec 48)) :
    threshold c h = median (h.map (·.toNat)) * c.threshMultQ8 / 256 + c.threshFloor := by
  simp only [threshold, historyStat, hstat]

end Sys2Proof.Machine

namespace Sys2Proof.Proofs
open Sys2Proof.Machine

/-- Settles O47: the mean by its definition, the median by `median_odd` and `median_even`. -/
theorem threshold : Obligations.Threshold := by
  intro c h
  have hlen : (h.map (·.toNat)).length = h.length := List.length_map _
  refine ⟨fun hmean => ?_, fun hmedian l hperm hsorted => ⟨fun hodd => ?_, fun heven => ?_⟩⟩
  · rw [threshold_mean hmean, mean, hlen]
  · rw [threshold_median hmedian, median_odd hperm hsorted (hlen ▸ hodd), hlen]
  · rw [threshold_median hmedian, median_even hperm hsorted (hlen ▸ heven), hlen]

end Sys2Proof.Proofs
end

section
/-! PROOFS. The capture agent (40_beat_detector.md R141, R156, R157, R159, R160): one equation for each branch of its
step. -/

namespace Sys2Proof.Machine

section Branches
variable {s : State}

theorem captureStep_of_event (hv : s.mbox.valid = true) : captureStep s = deliver s := by
  simp only [captureStep, hv, if_true]

theorem captureStep_of_stopped (hv : s.mbox.valid = false) (hr : s.loops.runCapture = false) :
    captureStep s = .next s := by
  simp [captureStep, hv, hr]

theorem captureStep_of_stop (hv : s.mbox.valid = false) (hr : s.loops.runCapture = true)
    (hs : s.loops.stopCapture = true) : captureStep s = .next (captureStop s) := by
  simp [captureStep, hv, hr, hs]

theorem captureStep_of_no_item (hv : s.mbox.valid = false) (hs : s.loops.stopCapture = false)
    (ha : s.env.audio = []) : captureStep s = .next s := by
  simp [captureStep, hv, hs, nextItem?, ha]

theorem captureStep_of_item {it : AudioItem} {rest : List AudioItem} (hv : s.mbox.valid = false)
    (hr : s.loops.runCapture = true) (hs : s.loops.stopCapture = false) (ha : s.env.audio = it :: rest)
    (hdue : itemDue s.time it = true) : captureStep s = .next (takeItem it (popAudio s)) := by
  have hnext : nextItem? s = some it := by simp [nextItem?, ha, hdue]
  simp [captureStep, hv, hr, hs, hnext]

theorem popAudio_of_cons {it : AudioItem} {rest : List AudioItem} (ha : s.env.audio = it :: rest) :
    popAudio s = { s with env := { s.env with audio := rest } } := by
  rw [popAudio, ha, List.tail_cons]

end Branches

/-- A frame of another length is ignored (40_beat_detector.md R141). -/
theorem pushFrame_of_length_ne {s : State} {tCap : Time} {frame : List Sample}
    (hlen : frame.length ≠ s.cfg.frameLen) : pushFrame frame tCap s = s := if_neg hlen

/-- With a descriptor to read, ON_BEAT does not fault. -/
theorem onBeat_of {s : State} {d : Descriptor} (h : ActiveIs s d) (ts : Time) : ∃ p, onBeat ts s = .ok p := by
  simp only [onBeat, trigger, activeDesc_of h]
  split
  · exact ⟨_, rfl⟩
  · exact ⟨_, rfl⟩

/-- BEAT answers what ON_BEAT found (41_engine_control.md R190). -/
theorem exec_beat_of {ts : Time} {s : State} {p : Bool × State} (hp : onBeat ts s = .ok p) :
    exec (.beat ts) s = .next (p.2.respondOk (processedBit p.1)) := by
  have harm : exec (.beat ts) s = answerProcessed (onBeat ts s) := rfl
  rw [harm, hp]
  rfl

/-- DELIVER is ON_BEAT and the consumption of the event (40_beat_detector.md R156). -/
theorem deliver_of {s : State} {p : Bool × State} (hp : onBeat s.mbox.ts s = .ok p) :
    deliver s = .next { p.2 with mbox := { p.2.mbox with valid := false } } := by
  rw [deliver, hp]

/-- ON_BEAT leaves the mailbox, the port and RESP, so DELIVER is BEAT with its response dropped. -/
theorem deliver_eq_beat {s : State} {p : Bool × State} (hp : onBeat s.mbox.ts s = .ok p) :
    deliver s = .next { p.2.respondOk (processedBit p.1) with
      mbox := { s.mbox with valid := false }, port := s.port, resp := s.resp } := by
  obtain ⟨hframe, -⟩ := onBeat_frame hp
  rw [deliver_of hp, ← hframe.mbox, ← hframe.port, ← hframe.resp]
  rfl

end Sys2Proof.Machine

namespace Sys2Proof.Proofs
open Sys2Proof.Machine

/-- Settles O49: each clause is one branch of `captureStep`; the first is `deliver_eq_beat`. -/
theorem captureOrder : Obligations.CaptureOrder := by
  refine fun s => ⟨?_, captureStep_of_stop, captureStep_of_stopped, captureStep_of_no_item, ?_⟩
  · intro d hv hd
    obtain ⟨p, hp⟩ := onBeat_of hd s.mbox.ts
    exact ⟨_, exec_beat_of hp, (captureStep_of_event hv).trans (deliver_eq_beat hp)⟩
  · intro tCap frame rest hv hr hs ha hdue hlen
    have hstep : captureStep s = .next (Machine.pushFrame frame tCap (popAudio s)) :=
      captureStep_of_item hv hr hs ha (decide_eq_true hdue)
    rw [pushFrame_of_length_ne (s := popAudio s) hlen, popAudio_of_cons ha] at hstep
    exact hstep

/-- Settles O50: a taken failure is READ_FAIL on the popped state, whose two outcomes are `readFail_cases`. -/
theorem readFail : Obligations.ReadFail := by
  intro s rest hv hr hs ha
  have hstep : captureStep s = .next (Machine.readFail (popAudio s)) := captureStep_of_item hv hr hs ha rfl
  have hinfo : ((failCntNext s.det.failCnt).zeroExtend 16).toNat = (failCntNext s.det.failCnt).toNat :=
    BitVec.toNat_setWidth_of_le (by decide)
  have hcases := readFail_cases (popAudio s)
  rw [popAudio_of_cons ha] at hstep hcases
  rcases hcases with ⟨hlimit, e⟩ | ⟨hbelow, e⟩ <;> rw [e] at hstep
  · exact ⟨_, _, hstep, failCntNext_toNat _, rfl, rfl, hinfo, fun _ => ⟨rfl, rfl⟩,
      fun hbelow => absurd hlimit (Nat.not_le.2 hbelow), rfl⟩
  · exact ⟨_, _, hstep, failCntNext_toNat _, rfl, rfl, hinfo,
      fun hlimit => absurd hlimit (Nat.not_le.2 hbelow), fun _ => ⟨rfl, rfl⟩, rfl⟩

end Sys2Proof.Proofs
end

section
/-! PROOFS. GET_VOLUME (40_beat_detector.md R155), and the refusal of a header with a bit set in a zero field, for every
row of the map (30_encoding.md R120). -/

namespace Sys2Proof.Machine
open Sys2Proof.Laws

/-- A header with the row's OP and a bit set where the row asks for zeros selects no row. -/
theorem selects_no_row {o : Opcode} {bits h : Word} (hmask : headerMask o &&& bits = bits)
    (hzero : headerMatch o &&& bits = 0) (hop : field 31 24 h = opByte o) (hset : h &&& bits ≠ 0) (row : Opcode) :
    h &&& headerMask row ≠ headerMatch row := by
  intro hs
  have hrow : row = o :=
    Option.some.inj (((opcodeOf?_eq_some_iff.2 (opField_of_selects hs)).symm).trans (opcodeOf?_eq_some_iff.2 hop))
  subst hrow
  refine hset ?_
  calc h &&& bits = h &&& headerMask row &&& bits := by rw [BitVec.and_assoc, hmask]
    _ = 0 := by rw [hs, hzero]

/-- `Obligations.IllegalEncodings` for one row and the bits its mask covers besides OP. -/
theorem zeroBitsRefused_of_mask {o : Opcode} {bits : Word} (hmask : headerMask o &&& bits = bits)
    (hzero : headerMatch o &&& bits = 0) : ZeroBitsRefused o bits := by
  intro h s hop hset hport
  exact (Proofs.illegalEncodings.1 h s (selects_no_row hmask hzero hop hset)).2 hport

/-- The word of an OK answer is its data, OK's code being 0 (30_encoding.md R112). -/
theorem responseWord_ok_zeroExtend {w : Nat} (hw : w ≤ 24) (x : BitVec w) :
    responseWord .ok (x.zeroExtend 24) = x.zeroExtend 32 := by
  apply BitVec.eq_of_toNat_eq
  have hx := x.isLt
  have hpow : 2 ^ w ≤ 2 ^ 24 := Nat.pow_le_pow_right (by decide) hw
  have hcode : (codeByte .ok).toNat = 0 := rfl
  simp only [responseWord, append_toNat, hcode, BitVec.truncate_eq_setWidth, BitVec.toNat_setWidth]
  omega

end Sys2Proof.Machine

namespace Sys2Proof.Proofs
open Sys2Proof.Machine

/-- Settles O51: GET_VOLUME's arm answers D_VOL; the refusal is `zeroBitsRefused_of_mask`. -/
theorem getVolume : Obligations.GetVolume := by
  refine ⟨fun s => ?_, zeroBitsRefused_of_mask (by decide) (by decide)⟩
  have harm : exec .getVolume s = .next (s.respond [responseWord .ok (s.det.vol.zeroExtend 24)]) := rfl
  rw [responseWord_ok_zeroExtend (by decide)] at harm
  exact ⟨_, harm, rfl⟩

end Sys2Proof.Proofs
end

section
/-! PROOFS. The engine's beat clock over a run (41_engine_control.md R195): only a processed beat writes E_LAST_BEAT,
and it has passed the debounce; BEAT, TRIGGER, UPDATE, a tick and a delivered event are the ways to one. -/

namespace Sys2Proof.Machine

/-! ## How the engine's beat clock moves -/

/-- From `e` to `f` a valid beat clock stays valid, and its last beat is the same or later by more than the debounce. -/
def BeatForward (e f : Engine) : Prop :=
  e.lbValid = true → f.lbValid = true ∧ (f.lastBeat = e.lastBeat ∨ e.lastBeat.toNat + 200000 < f.lastBeat.toNat)

theorem BeatForward.refl (e : Engine) : BeatForward e e := fun hv => ⟨hv, .inl rfl⟩

/-- Gaps add up, so two advances lie at least as far apart as one. -/
theorem BeatForward.trans {e f g : Engine} (hef : BeatForward e f) (hfg : BeatForward f g) : BeatForward e g := by
  intro hv
  obtain ⟨hf, hfirst⟩ := hef hv
  obtain ⟨hg, hsecond⟩ := hfg hf
  refine ⟨hg, ?_⟩
  rcases hsecond with hsame | hlater
  · rwa [hsame]
  · rcases hfirst with hsame | hlater'
    · rw [← hsame]
      exact .inr hlater
    · exact .inr (by omega)

/-! ## Beats and UPDATE -/

/-- A beat past the debounce moves the clock by more than the debounce (41_engine_control.md R190, R192). -/
theorem beatProc_forward (d : Descriptor) {ts : Time} {s : State} (hgate : debounced ts s.eng = false) :
    BeatForward s.eng (beatProc d ts s).eng := by
  obtain ⟨-, -, -, -, -, -, hbeat, hvalid⟩ := beatProc_eng d ts s
  intro hv
  refine ⟨hvalid, .inr ?_⟩
  rw [hbeat]
  exact not_debounced hgate hv

theorem tryBeat_forward (d : Descriptor) (ts : Time) (s : State) : BeatForward s.eng (tryBeat d ts s).2.eng := by
  rcases tryBeat_cases d ts s with ⟨-, e⟩ | ⟨-, hgate, e⟩ <;> rw [e]
  · exact .refl _
  · exact beatProc_forward d hgate

theorem onBeat_forward {ts : Time} {s : State} {p : Bool × State} (hp : onBeat ts s = .ok p) :
    BeatForward s.eng p.2.eng := by
  rcases onBeat_ok hp with rfl | ⟨d, -, -, rfl⟩
  · exact .refl _
  · exact tryBeat_forward d ts s

theorem trigger_forward {ts : Time} {s : State} {p : Bool × State} (hp : trigger ts s = .ok p) :
    BeatForward s.eng p.2.eng := by
  obtain ⟨d, -, rfl⟩ := trigger_ok hp
  exact tryBeat_forward d ts s

/-- A beat UPDATE synthesizes passes the same debounce (42_engine_render.md R211). -/
theorem synthesize_forward (d : Descriptor) (now : Time) (s : State) :
    BeatForward s.eng (synthesize d now s).2.eng := by
  rcases synthesize_cases d now s with e | ⟨-, -, hgate, e⟩ <;> rw [e]
  · exact .refl _
  · exact beatProc_forward d hgate

/-- Of the engine, UPDATE's second duty writes the envelope only (42_engine_render.md R230). -/
theorem paint_forward (d : Descriptor) (now : Time) (s : State) : BeatForward s.eng (paint d now s).eng := by
  rw [paint_eq]
  exact .refl s.eng

theorem updateWith_forward (d : Descriptor) (now : Time) (s : State) :
    BeatForward s.eng (updateWith d now s).2.eng :=
  (synthesize_forward d now s).trans (paint_forward d now (noteTick now (synthesize d now s).2))

/-! ## The commands -/

/-- START writes no engine register (44_orchestrator.md R303). -/
theorem startResult_eng (mask : BitVec 3) (s : State) : (startResult mask s).eng = s.eng := by
  have hasked : (askDevices mask s).eng = s.eng := by rw [(askDevices_frame mask s).1]
  rcases startResult_cases mask s with ⟨-, -, e⟩ | ⟨u, v, hu, hv, he⟩
  · rw [e, State.refuse_eng, hasked]
  · have hstarted : v.eng = s.eng := by
      rw [hv, (startLoops_frame _ _ _).state]
      rcases hu with ⟨-, rfl⟩ | ⟨-, -, rfl⟩
      · exact hasked
      · exact hasked
    rcases he with ⟨-, e⟩ | ⟨-, e⟩
    · rw [e, State.respondOk_eng, hstarted]
    · rw [e, State.refuse_eng, hstarted]

/-- BEAT, TRIGGER and UPDATE move the clock forward; no other command writes it. -/
theorem exec_forward {i : Instr} {s t : State} (h : exec i s = .next t) : BeatForward s.eng t.eng := by
  cases i with
  | setChannel idx val =>
    simp only [exec, execSetChannel, raise] at h
    (repeat' split at h) <;> cases h <;> exact .refl _
  | setChannels pairs =>
    simp only [exec, execSetChannels, raise] at h
    split at h <;> cases h <;> exact .refl _
  | getChannel idx =>
    simp only [exec, execGetChannel, raise] at h
    split at h <;> cases h <;> exact .refl _
  | blackout => cases h; exact .refl _
  | setAll val =>
    simp only [exec, execSetAll, raise] at h
    split at h <;> cases h <;> exact .refl _
  | setPreset id =>
    simp only [exec, execSetPreset, raise] at h
    split at h <;> cases h <;> exact .refl s.eng
  | setAudioReactive en => cases h; exact .refl s.eng
  | setAddress fix addr =>
    simp only [exec, execSetAddress, raise] at h
    (repeat' split at h) <;> cases h <;> exact .refl s.eng
  | getStatus => cases h; exact .refl _
  | setBpm bpm =>
    simp only [exec, execSetBpm, raise] at h
    split at h <;> cases h <;> exact .refl s.eng
  | beat ts =>
    obtain ⟨p, hp, rfl⟩ := answerProcessed_next h
    exact onBeat_forward hp
  | trigger ts =>
    obtain ⟨p, hp, rfl⟩ := answerProcessed_next h
    exact trigger_forward hp
  | update now =>
    obtain ⟨p, hp, rfl⟩ := answerProcessed_next h
    obtain ⟨d, -, rfl⟩ := updateOp_ok hp
    exact updateWith_forward d now s
  | getVolume => cases h; exact .refl _
  | start mask =>
    cases h
    rw [startResult_eng]
    exact .refl _
  | stop mask => cases h; exact .refl _

/-! ## Steps and runs -/

theorem hostStep_forward {s t : State} (h : hostStep s = .next t) : BeatForward s.eng t.eng := by
  rcases hostStep_next h with rfl | ⟨info, rfl⟩ | ⟨i, -, -, hi⟩
  · exact .refl _
  · exact .refl _
  · exact exec_forward hi

/-- The capture agent reaches the engine by a delivered event only (40_beat_detector.md R156). -/
theorem captureStep_forward {s t : State} (h : captureStep s = .next t) : BeatForward s.eng t.eng := by
  rcases captureStep_next h with ⟨-, p, hp, rfl⟩ | ⟨-, rfl⟩ | ⟨-, -, -, rfl⟩ | ⟨-, -, -, it, -, rfl⟩
  · exact onBeat_forward hp
  · exact .refl _
  · exact .refl _
  · rw [takeItem_frame]
    exact .refl _

theorem tickStep_forward {s t : State} (h : tickStep s = .next t) : BeatForward s.eng t.eng := by
  rcases tickStep_next h with ⟨-, rfl⟩ | ⟨-, -, rfl⟩ | ⟨-, -, d, -, rfl⟩
  · exact .refl _
  · exact .refl _
  · rw [advanceTick_eng]
    exact updateWith_forward d s.time s

/-- The three agents that write engine registers move the clock forward; every other move leaves it (`step_owned`). -/
theorem step_forward {s t : State} (hm : s.nextMove ≠ .reset) (h : step s = .next t) : BeatForward s.eng t.eng := by
  by_cases hhost : s.nextMove = .host
  · simp only [step, hhost, perform] at h
    exact hostStep_forward (s := s.takeMove) h
  by_cases hticker : s.nextMove = .ticker
  · simp only [step, hticker, perform] at h
    exact tickStep_forward (s := s.takeMove) h
  by_cases hcapture : s.nextMove = .capture
  · simp only [step, hcapture, perform] at h
    exact captureStep_forward (s := s.takeMove) h
  · rw [(step_owned h hm).eng hhost hticker hcapture]
    exact .refl _

theorem RunsTo.forward {s t : State} (hrun : RunsTo s t) : BeatForward s.eng t.eng := by
  induction hrun with
  | refl => exact .refl _
  | tail _ hm hstep ih => exact ih.trans (step_forward hm hstep)

end Sys2Proof.Machine

namespace Sys2Proof.Proofs
open Sys2Proof.Machine

/-- Settles O35, by induction on the run (`RunsTo.forward`) with the step lemma `step_forward`. -/
theorem beatClock : Obligations.BeatClock := fun _ _ hrun => hrun.forward

end Sys2Proof.Proofs
end

section
/-! PROOFS. The engine's control commands: SET_PRESET, SET_AUDIO_REACTIVE, SET_ADDRESS, SET_BPM and GET_STATUS
(41_engine_control.md R180, R185 to R188). -/

namespace Sys2Proof.Machine
open Sys2Proof.Laws

/-! ## The words of a refusal (30_encoding.md R112, R114) -/

theorem responseWord_infoPreset (c : ResultCode) (id : BitVec 8) :
    responseWord c (infoPreset id) = codeByte c ++ 0#16 ++ id := by
  apply BitVec.eq_of_toNat_eq
  simp only [responseWord, infoPreset, append_toNat, BitVec.toNat_ofNat]
  omega

theorem responseWord_infoAddress (c : ResultCode) (fix : BitVec 4) (addr : BitVec 12) :
    responseWord c (infoAddress fix addr) = codeByte c ++ fix ++ 0#8 ++ addr := by
  apply BitVec.eq_of_toNat_eq
  simp only [responseWord, infoAddress, append_toNat, BitVec.toNat_ofNat]
  omega

/-! ## SET_PRESET -/

/-- `s` after SET_PRESET selected entry `id`, the descriptor `d` (41_engine_control.md R180). -/
def State.selectPreset (s : State) (id : BitVec 8) (d : Descriptor) : State :=
  { s with
    eng := { s.eng with preset := id, base := d.base, envelope := 65536, toggle := false, rot := 0, beatCount := 0 }
    port := readyPort, resp := s.resp ++ [0] }

theorem exec_setPreset_of_entry {id : BitVec 8} {d : Descriptor} {s : State}
    (hentry : s.cfg.presetTable[id.toNat]? = some d) : exec (.setPreset id) s = .next (s.selectPreset id d) := by
  simp only [exec, execSetPreset, hentry]
  rfl

theorem exec_setPreset_of_unknown {id : BitVec 8} {s : State} (hid : s.cfg.presetTable.length ≤ id.toNat) :
    exec (.setPreset id) s = .next (s.refuse .unknownPreset (infoPreset id)) := by
  simp only [exec, execSetPreset, List.getElem?_eq_none hid, raise]

/-! ## SET_ADDRESS -/

theorem PerFixture.get_set_same {α : Type} (p : PerFixture α) (f : Fixture) (x : α) :
    PerFixture.get (PerFixture.set p f x) f = x := by
  cases f <;> rfl

theorem PerFixture.get_set_other {α : Type} (p : PerFixture α) {f g : Fixture} (x : α) (h : g ≠ f) :
    PerFixture.get (PerFixture.set p f x) g = PerFixture.get p g := by
  cases f <;> cases g <;> simp [PerFixture.get, PerFixture.set] at h ⊢

/-- The three fixtures FIX can name (41_engine_control.md R186). -/
theorem fixtureOf?_eq_some_iff {fix : BitVec 4} {f : Fixture} : fixtureOf? fix = some f ↔
    fix = 0 ∧ f = .panelA ∨ fix = 1 ∧ f = .panelB ∨ fix = 2 ∧ f = .bar := by
  revert fix
  cases f <;> decide

theorem rangeFits_iff {n : Nat} {f : Fixture} {a : Nat} : rangeFits n f a = true ↔ 1 ≤ a ∧ a + f.width - 1 ≤ n := by
  simp only [rangeFits, Bool.and_eq_true, decide_eq_true_eq]

/-- An address that fits a universe of at most 512 channels fits the ten bits of E_ADDR (10_state.md R36). -/
theorem addressRegister_toNat {n : Nat} {f : Fixture} {addr : BitVec 12} (hn : n ≤ 512)
    (hlast : addr.toNat + f.width - 1 ≤ n) : (addr.setWidth 10).toNat = addr.toNat := by
  have hwidth : 3 ≤ f.width := by cases f <;> decide
  rw [BitVec.toNat_setWidth]
  exact Nat.mod_eq_of_lt (by omega)

theorem exec_setAddress_of_fits {fix : BitVec 4} {addr : BitVec 12} {f : Fixture} {s : State}
    (hfix : fixtureOf? fix = some f) (hfits : rangeFits s.n f addr.toNat = true) :
    exec (.setAddress fix addr) s = .next (State.respondOk
      { s with eng := { s.eng with addr := PerFixture.set s.eng.addr f (addr.setWidth 10) } } 0) := by
  simp only [exec, execSetAddress, hfix, hfits, if_true]

theorem exec_setAddress_of_refused {fix : BitVec 4} {addr : BitVec 12} {s : State}
    (hrefused : ∀ f, fixtureOf? fix = some f → rangeFits s.n f addr.toNat = false) :
    exec (.setAddress fix addr) s = .next (s.refuse .validationError (infoAddress fix addr)) := by
  simp only [exec, execSetAddress, raise]
  cases hfix : fixtureOf? fix with
  | none => rfl
  | some f => simp only [hrefused f hfix, Bool.false_eq_true, if_false]

/-- No fixture is named, or its range does not fit. -/
theorem not_rangeFits_of_refused {fix : BitVec 4} {a n : Nat}
    (h : 2 < fix.toNat ∨ a < 1 ∨ fix.toNat < 2 ∧ n < a + 3 - 1 ∨ fix.toNat = 2 ∧ n < a + 14 - 1) (f : Fixture)
    (hfix : fixtureOf? fix = some f) : rangeFits n f a = false := by
  rw [Bool.eq_false_iff, Ne, rangeFits_iff]
  rcases fixtureOf?_eq_some_iff.1 hfix with ⟨rfl, rfl⟩ | ⟨rfl, rfl⟩ | ⟨rfl, rfl⟩ <;>
    simp [Fixture.width] at h ⊢ <;> omega

/-! ## SET_BPM and GET_STATUS -/

theorem exec_setBpm_of_pos {bpm : BitVec 16} (s : State) (hbpm : bpm ≠ 0) : exec (.setBpm bpm) s =
    .next { s with eng := { s.eng with bpm := bpm }, port := readyPort, resp := s.resp ++ [0] } := by
  simp only [exec, execSetBpm, hbpm, if_false]
  rfl

/-- AGE before any beat (41_engine_control.md R188). -/
theorem lastBeatAge_never {s : State} (hv : s.eng.lbValid = false) : (lastBeatAge s).toNat = 2 ^ 64 - 1 := by
  simp only [lastBeatAge, hv, Bool.false_eq_true, if_false, BitVec.toNat_allOnes]

/-- AGE after a beat; the natural subtraction is 0 for a beat in the future (41_engine_control.md R188). -/
theorem lastBeatAge_since {s : State} (hv : s.eng.lbValid = true) :
    (lastBeatAge s).toNat = s.time.toNat - s.eng.lastBeat.toNat := by
  have hfits : satSub s.time s.eng.lastBeat < 2 ^ 64 := (Nat.sub_le _ _).trans_lt s.time.isLt
  simp only [lastBeatAge, hv, if_true, BitVec.toNat_ofNat, Nat.mod_eq_of_lt hfits]
  rfl

theorem exec_getStatus (s : State) : exec .getStatus s =
    .next (s.respond [responseWord .ok (0#8 ++ s.eng.bpm), timeLo (lastBeatAge s), timeHi (lastBeatAge s)]) := rfl

/-- The tempo word: code OK and eight zero bits above E_BPM. -/
theorem responseWord_tempo (bpm : BitVec 16) : responseWord .ok (0#8 ++ bpm) = 0#16 ++ bpm := by
  apply BitVec.eq_of_toNat_eq
  have hcode : (codeByte .ok).toNat = 0 := rfl
  simp only [responseWord, hcode, append_toNat, BitVec.toNat_ofNat]
  omega

end Sys2Proof.Machine

namespace Sys2Proof.Proofs
open Sys2Proof.Machine

/-- Settles O28: the two branches of the table lookup, and `zeroBitsRefused_of_mask`. -/
theorem setPreset : Obligations.SetPreset := by
  refine ⟨fun _ _ _ => exec_setPreset_of_entry, fun id s hid => ?_, zeroBitsRefused_of_mask (by decide) (by decide)⟩
  refine ⟨_, exec_setPreset_of_unknown hid, ?_⟩
  rw [State.refuse, responseWord_infoPreset]
  rfl

/-- Settles O29: the mode bit's arm, and `zeroBitsRefused_of_mask`. -/
theorem setAudioReactive : Obligations.SetAudioReactive :=
  ⟨fun _ _ => rfl, zeroBitsRefused_of_mask (by decide) (by decide)⟩

/-- Settles O30: a fitting range is written to one fixture, every other one is refused. -/
theorem setAddress : Obligations.SetAddress := by
  refine ⟨?_, ?_, zeroBitsRefused_of_mask (by decide) (by decide)⟩
  · intro fix addr f s hn hfix hfirst hlast
    have hexec := exec_setAddress_of_fits (fixtureOf?_eq_some_iff.2 hfix) (rangeFits_iff.2 ⟨hfirst, hlast⟩)
    refine ⟨_, hexec, rfl, ?_, fun g hg => PerFixture.get_set_other _ _ hg⟩
    rw [← addressRegister_toNat hn hlast]
    exact congrArg BitVec.toNat (PerFixture.get_set_same _ f _)
  · intro fix addr s hrefused
    refine ⟨_, exec_setAddress_of_refused (not_rangeFits_of_refused hrefused), ?_⟩
    rw [State.refuse, responseWord_infoAddress]
    rfl

/-- Settles O31: the two branches of the check for 0, and `zeroBitsRefused_of_mask`. -/
theorem setBpm : Obligations.SetBpm :=
  ⟨fun _ s hbpm => exec_setBpm_of_pos s hbpm, fun _ => ⟨_, rfl, rfl⟩, zeroBitsRefused_of_mask (by decide) (by decide)⟩

/-- Settles O32: AGE is `lastBeatAge`, in its two cases. -/
theorem getStatus : Obligations.GetStatus := by
  refine ⟨fun s => ⟨_, lastBeatAge s, exec_getStatus s, ?_, lastBeatAge_never, lastBeatAge_since⟩,
    zeroBitsRefused_of_mask (by decide) (by decide)⟩
  rw [responseWord_tempo]
  rfl

end Sys2Proof.Proofs
end

section
/-! PROOFS. BEAT and TRIGGER (41_engine_control.md R190 to R194): what BEAT_PROC writes, and when the gates
let it run. -/

namespace Sys2Proof.Machine

/-! ## BEAT_PROC, action by action -/

/-- `DECAY_KINDS` (41_engine_control.md R196). -/
theorem decays_iff {k : Kind} : decays k = true ↔ k = .pulseDecay ∨ k = .cyclicPalette := by
  cases k <;> simp [decays]

/-- A drawn colour is one of the palette (41_engine_control.md R194). -/
theorem drawColor_mem {s : State} (hpalette : s.cfg.randomPalette ≠ []) : drawColor s ∈ s.cfg.randomPalette := by
  have hlt : s.draw s.cfg.randomPalette.length < s.cfg.randomPalette.length :=
    Nat.mod_lt _ (List.length_pos_iff.2 hpalette)
  rw [drawColor, List.getD_eq_getElem _ _ hlt]
  exact List.getElem_mem hlt

/-- The entry the next draw names (41_engine_control.md R194). -/
theorem getElem?_drawColor {s : State} {u : Nat} {rest : List Nat} (hpalette : s.cfg.randomPalette ≠ [])
    (hdraws : s.env.draws = u :: rest) :
    s.cfg.randomPalette[u % s.cfg.randomPalette.length]? = some (drawColor s) := by
  have hlt : u % s.cfg.randomPalette.length < s.cfg.randomPalette.length :=
    Nat.mod_lt _ (List.length_pos_iff.2 hpalette)
  rw [drawColor, State.draw, hdraws, List.headD_cons, List.getD_eq_getElem _ _ hlt]
  exact List.getElem?_eq_getElem hlt

section Recolor
variable {d : Descriptor} (s : State)

theorem recolor_of_keep (h : d.onBeat = .keep) : recolor d s = s := by
  rw [recolor, h]

theorem recolor_of_rotate (h : d.onBeat = .rotate) : recolor d s = rotateBase s := by
  rw [recolor, h]

theorem recolor_of_randomize (h : d.onBeat = .randomize) : recolor d s = randomizeBase s := by
  rw [recolor, h]

end Recolor

/-- E_ROT counts the rotations (41_engine_control.md R194). -/
theorem recolor_rot (d : Descriptor) (s : State) :
    (recolor d s).eng.rot = if d.onBeat = .rotate then s.eng.rot + 1 else s.eng.rot := by
  cases h : d.onBeat with
  | keep => rw [recolor_of_keep s h, if_neg (by decide)]
  | randomize =>
    rw [recolor_of_randomize s h, if_neg (by decide)]
    rfl
  | rotate =>
    rw [recolor_of_rotate s h, if_pos rfl]
    rfl

/-- RANDOMIZE gives every fixture a colour of the palette. -/
theorem randomizeBase_mem {s : State} (hpalette : s.cfg.randomPalette ≠ []) :
    (randomizeBase s).eng.base.panelA ∈ s.cfg.randomPalette ∧ (randomizeBase s).eng.base.panelB ∈ s.cfg.randomPalette ∧
      (randomizeBase s).eng.base.bar ∈ s.cfg.randomPalette :=
  ⟨drawColor_mem (s := s) hpalette, drawColor_mem (s := s.drawn) hpalette, drawColor_mem (s := s.drawn.drawn) hpalette⟩

/-- RANDOMIZE takes three draws, in the order of the fixtures. -/
theorem randomizeBase_of_draws {s : State} {u0 u1 u2 : Nat} {rest : List Nat} (hpalette : s.cfg.randomPalette ≠ [])
    (hdraws : s.env.draws = u0 :: u1 :: u2 :: rest) :
    s.cfg.randomPalette[u0 % s.cfg.randomPalette.length]? = some (randomizeBase s).eng.base.panelA ∧
      s.cfg.randomPalette[u1 % s.cfg.randomPalette.length]? = some (randomizeBase s).eng.base.panelB ∧
      s.cfg.randomPalette[u2 % s.cfg.randomPalette.length]? = some (randomizeBase s).eng.base.bar := by
  have hsecond : s.drawn.env.draws = u1 :: u2 :: rest := congrArg List.tail hdraws
  have hthird : s.drawn.drawn.env.draws = u2 :: rest := congrArg List.tail hsecond
  exact ⟨getElem?_drawColor hpalette hdraws, getElem?_drawColor (s := s.drawn) hpalette hsecond,
    getElem?_drawColor (s := s.drawn.drawn) hpalette hthird⟩

/-- The visible actions on the engine: the toggle flips, the base colours and E_ROT are the recolouring's, and the
envelope of a decaying kind is filled (41_engine_control.md R192, R193). -/
theorem beatActions_eng (d : Descriptor) (s : State) : (beatActions d s).eng = { s.eng with
    toggle := !s.eng.toggle, base := (recolor d s).eng.base, rot := (recolor d s).eng.rot
    envelope := if decays d.kind then 65536 else s.eng.envelope } := by
  unfold beatActions recolor
  cases d.onBeat <;> cases decays d.kind <;> rfl

/-- The part of BEAT_PROC before the divider: the beat is counted and timed (41_engine_control.md R192). -/
def countBeat (ts : Time) (s : State) : State :=
  { s with eng := { s.eng with beatCount := s.eng.beatCount + 1, lastBeat := ts, lbValid := true } }

section Divider
variable {d : Descriptor} {s : State} (ts : Time)

theorem beatProc_of_divides (h : (s.eng.beatCount + 1).toNat % d.divider = 0) :
    beatProc d ts s = beatActions d (countBeat ts s) := if_pos h

theorem beatProc_of_not_divides (h : ¬(s.eng.beatCount + 1).toNat % d.divider = 0) :
    beatProc d ts s = countBeat ts s := if_neg h

/-- BEAT_PROC on a divider-th beat. -/
theorem beatProcessed_of_divides (hpalette : s.cfg.randomPalette ≠ [])
    (hdiv : (s.eng.beatCount + 1).toNat % d.divider = 0) : BeatProcessed s d ts (beatProc d ts s).eng := by
  rw [beatProc_of_divides ts hdiv, beatActions_eng]
  refine ⟨rfl, ⟨rfl, rfl⟩, ⟨rfl, rfl, rfl, rfl, rfl⟩, ?_, ?_, ?_, ?_, ?_, ?_, ?_⟩
  · simp only [hdiv, if_true]
    rfl
  · simp only [hdiv, true_and, decays_iff]
    rfl
  · simp only [hdiv, true_and]
    exact recolor_rot d (countBeat ts s)
  · rintro (hnot | hkeep)
    · exact absurd hdiv hnot
    · rw [recolor_of_keep _ hkeep]
      rfl
  · intro _ hrotate
    rw [recolor_of_rotate _ hrotate]
    exact ⟨rfl, rfl, rfl⟩
  · intro _ hrandomize
    rw [recolor_of_randomize _ hrandomize]
    exact randomizeBase_mem (s := countBeat ts s) hpalette
  · intro _ hrandomize u0 u1 u2 rest hdraws
    rw [recolor_of_randomize _ hrandomize]
    exact randomizeBase_of_draws (s := countBeat ts s) hpalette hdraws

/-- BEAT_PROC on any other beat shows nothing. -/
theorem beatProcessed_of_not_divides (hdiv : ¬(s.eng.beatCount + 1).toNat % d.divider = 0) :
    BeatProcessed s d ts (beatProc d ts s).eng := by
  rw [beatProc_of_not_divides ts hdiv]
  exact
    { count := rfl
      clock := ⟨rfl, rfl⟩
      kept := ⟨rfl, rfl, rfl, rfl, rfl⟩
      toggle := (if_neg hdiv).symm
      envelope := (if_neg fun h => hdiv h.1).symm
      rot := (if_neg fun h => hdiv h.1).symm
      base_kept := fun _ => rfl
      base_rotated := fun h => absurd h hdiv
      base_drawn := fun h => absurd h hdiv
      base_from_draws := fun h => absurd h hdiv }

/-- BEAT_PROC does what its rules say (41_engine_control.md R192 to R194). -/
theorem beatProc_processed (hpalette : s.cfg.randomPalette ≠ []) : BeatProcessed s d ts (beatProc d ts s).eng := by
  by_cases hdiv : (s.eng.beatCount + 1).toNat % d.divider = 0
  · exact beatProcessed_of_divides ts hpalette hdiv
  · exact beatProcessed_of_not_divides ts hdiv

end Divider

/-! ## The gates -/

/-- The debounce (41_engine_control.md R190). -/
theorem debounced_iff {ts : Time} {e : Engine} :
    debounced ts e = true ↔ e.lbValid = true ∧ ts.toNat - e.lastBeat.toNat ≤ 200000 := by
  simp only [debounced, Bool.and_eq_true, decide_eq_true_eq]
  rfl

theorem not_debounced_iff {ts : Time} {e : Engine} :
    debounced ts e = false ↔ e.lbValid = false ∨ 200000 < ts.toNat - e.lastBeat.toNat := by
  rw [← Bool.not_eq_true, debounced_iff, not_and_or, Bool.not_eq_true, Nat.not_le]

theorem tryBeat_of_gated {d : Descriptor} {ts : Time} {s : State}
    (h : d.kind = .blackout ∨ debounced ts s.eng = true) : tryBeat d ts s = (false, s) := by
  rcases tryBeat_cases d ts s with ⟨-, e⟩ | ⟨hkind, hopen, -⟩
  · exact e
  · rw [hopen] at h
    exact absurd h (by simp [hkind])

theorem tryBeat_of_open {d : Descriptor} {ts : Time} {s : State} (hkind : d.kind ≠ .blackout)
    (hopen : debounced ts s.eng = false) : tryBeat d ts s = (true, beatProc d ts s) := by
  rcases tryBeat_cases d ts s with ⟨h, -⟩ | ⟨-, -, e⟩
  · rw [hopen] at h
    exact absurd h (by simp [hkind])
  · exact e

theorem trigger_of {s : State} {d : Descriptor} (h : ActiveIs s d) (ts : Time) :
    trigger ts s = .ok (tryBeat d ts s) := by
  rw [trigger, activeDesc_of h]

/-- With audio-reactive mode on BEAT is TRIGGER (41_engine_control.md R190, R191). -/
theorem onBeat_of_reactive {s : State} (h : s.eng.audioReactive = true) (ts : Time) : onBeat ts s = trigger ts s :=
  if_pos h

theorem onBeat_of_not_reactive {s : State} (h : s.eng.audioReactive = false) (ts : Time) :
    onBeat ts s = .ok (false, s) := by
  rw [onBeat, h]
  rfl

/-! ## The answers -/

/-- The word that says whether a beat was processed (30_encoding.md R113). -/
theorem responseWord_processedBit (b : Bool) : responseWord .ok (processedBit b) = if b then 1 else 0 := by
  revert b
  decide

theorem respondOk_processedBit (s : State) (b : Bool) : s.respondOk (processedBit b) =
    { s with port := readyPort, resp := s.resp ++ [if b then 1 else 0] } := by
  rw [← responseWord_processedBit]
  rfl

/-- A beat that was ignored answers DATA 0. -/
theorem answered_ignored (s : State) :
    ∃ t, answerProcessed (.ok (false, s)) = .next t ∧ AnsweredOnly s t [0] :=
  ⟨_, rfl, respondOk_processedBit s false⟩

/-- An operation of the engine that answers whether it processed a beat. -/
theorem answeredEngine_of_render {s u : State} (h : RenderFrame s u) (b : Bool) :
    AnsweredEngine s (u.respondOk (processedBit b)) [if b then 1 else 0] := by
  refine ⟨?_, h.draws⟩
  rw [respondOk_processedBit, h.resp, h.state]

/-- A beat that was processed answers DATA 1, and the engine is as BEAT_PROC leaves it. -/
theorem answered_processed {d : Descriptor} {s : State} (ts : Time) (hpalette : s.cfg.randomPalette ≠ []) :
    ∃ t, answerProcessed (.ok (true, beatProc d ts s)) = .next t ∧ AnsweredEngine s t [1] ∧ t.ch = s.ch ∧
      BeatProcessed s d ts t.eng := by
  obtain ⟨hframe, hch⟩ := beatProc_frame d ts s
  exact ⟨_, rfl, answeredEngine_of_render hframe true, hch, beatProc_processed ts hpalette⟩

end Sys2Proof.Machine

namespace Sys2Proof.Proofs
open Sys2Proof.Machine

/-- Settles O34: the gates close (`tryBeat_of_gated`) or open (`tryBeat_of_open`), and the answer says which. -/
theorem trigger : Obligations.Trigger := by
  refine ⟨fun ts d s hd => ?_, zeroBitsRefused_of_mask (by decide) (by decide)⟩
  have hexec : exec (.trigger ts) s = answerProcessed (.ok (tryBeat d ts s)) :=
    congrArg answerProcessed (trigger_of hd ts)
  rw [← debounced_iff, ← not_debounced_iff, hexec]
  refine ⟨fun hgated => ?_, fun hkind hopen => ?_⟩
  · rw [tryBeat_of_gated hgated]
    exact answered_ignored s
  · rw [tryBeat_of_open hkind hopen]
    exact answered_processed ts hd.palette

/-- Settles O33: with audio-reactive mode on it is TRIGGER's claim, with it off the beat is ignored. -/
theorem beat : Obligations.Beat := by
  refine ⟨fun ts d s hd => ?_, zeroBitsRefused_of_mask (by decide) (by decide)⟩
  have hexec : exec (.beat ts) s = answerProcessed (onBeat ts s) := rfl
  cases hmode : s.eng.audioReactive
  · rw [hexec, onBeat_of_not_reactive hmode]
    exact ⟨fun _ => answered_ignored s, fun h => nomatch h⟩
  · have hsame : exec (.beat ts) s = exec (.trigger ts) s :=
      hexec.trans (congrArg answerProcessed (onBeat_of_reactive hmode ts))
    obtain ⟨hignored, hprocessed⟩ := trigger.1 ts d s hd
    rw [hsame]
    exact ⟨fun h => hignored (h.resolve_left Bool.noConfusion), fun _ => hprocessed⟩

end Sys2Proof.Proofs
end

section
/-! PROOFS. No residue of the old preset after SET_PRESET (41_engine_control.md R180, R181): what UPDATE does to the
engine and to the channels a fixture owns depends on CFG, the engine registers and the draws alone. -/

namespace Sys2Proof.Machine

/-! ## What a look paints -/

/-- A fixture's range is written whole (42_engine_render.md R216). -/
theorem exists_fixtureCell {base : BitVec 10} {bytes : List Byte} {i : Nat} (hfirst : base.toNat ≤ i)
    (hlast : i < base.toNat + bytes.length) : ∃ c ∈ fixtureCells base bytes, c.1 = i := by
  obtain ⟨o, rfl⟩ := Nat.exists_eq_add_of_le hfirst
  have hlt : o < bytes.length := by omega
  have hmem : (bytes[o], o) ∈ bytes.zipIdx := List.mem_zipIdx_iff_getElem?.2 (List.getElem?_eq_getElem hlt)
  exact ⟨_, List.mem_map_of_mem hmem, rfl⟩

/-- A look writes every cell the fixtures own: the converse of `lookCells_owned`. -/
theorem exists_lookCell {a : PerFixture (BitVec 10)} {i : Nat} (h : ownedCell a i = true) (l : PerFixture Shade) :
    ∃ c ∈ lookCells a l, c.1 = i := by
  simp only [lookCells, List.mem_append, or_and_right, exists_or]
  rcases ownedCell_iff.1 h with ⟨hfirst, hlast⟩ | ⟨hfirst, hlast⟩ | ⟨hfirst, hlast⟩
  · exact .inl (.inl (exists_fixtureCell hfirst hlast))
  · exact .inl (.inr (exists_fixtureCell hfirst hlast))
  · exact .inr (exists_fixtureCell hfirst hlast)

/-- After the same writes a written cell reads the same, whatever was there before (43_transport.md R261). -/
theorem Memory.read_writeAll_congr {m m' : Memory} {cells : List Host.Cell} {i : Nat} (hm : Memory.wf m = true)
    (hm' : Memory.wf m' = true) (h : ∃ c ∈ cells, c.1 = i) :
    Memory.read (Memory.writeAll m cells) i = Memory.read (Memory.writeAll m' cells) i := by
  induction cells generalizing m m' with
  | nil => simp at h
  | cons c rest ih =>
    by_cases hrest : ∃ x ∈ rest, x.1 = i
    · exact ih (Memory.write_wf c.1 c.2 hm) (Memory.write_wf c.1 c.2 hm') hrest
    · have hlast : ∀ x ∈ rest, x.1 ≠ i := fun x hx hxi => hrest ⟨x, hx, hxi⟩
      have hc : c = (i, c.2) := by
        obtain ⟨x, hx, hxi⟩ := h
        rcases List.mem_cons.1 hx with rfl | hx
        · rw [← hxi]
        · exact absurd hxi (hlast x hx)
      rw [hc]
      exact (Memory.read_writeAll_last (before := []) hm hlast).trans
        (Memory.read_writeAll_last (before := []) hm' hlast).symm

/-! ## Two states UPDATE cannot tell apart -/

/-- The draws to come are the same. -/
def SameDraws (r s : State) : Prop := r.env.draws = s.env.draws ∧ r.env.drawsMade = s.env.drawsMade

theorem SameDraws.draw {r s : State} (h : SameDraws r s) (n : Nat) : r.draw n = s.draw n := by
  obtain ⟨hdraws, hmade⟩ := h
  rw [State.draw, State.draw, hdraws, hmade]

theorem SameDraws.drawn {r s : State} (h : SameDraws r s) : SameDraws r.drawn s.drawn := by
  obtain ⟨hdraws, hmade⟩ := h
  exact ⟨congrArg List.tail hdraws, congrArg (· + 1) hmade⟩

theorem SameDraws.drawColor {r s : State} (h : SameDraws r s) (hcfg : r.cfg = s.cfg) : drawColor r = drawColor s := by
  rw [Machine.drawColor, Machine.drawColor, h.draw, hcfg]

/-- `r` and `s` agree in what UPDATE under `d` reads: CFG, the engine but for E_LAST_TICK, and the draws to come where
`d` takes any (41_engine_control.md R194, 42_engine_render.md R225). -/
structure Alike (d : Descriptor) (r s : State) : Prop where
  cfg : r.cfg = s.cfg
  eng : r.eng = { s.eng with lastTick := r.eng.lastTick }
  draws : SameDraws r s ∨ d.kind ≠ .glitch ∧ d.onBeat ≠ .randomize

section Preserved
variable {d : Descriptor} {r s : State} (h : Alike d r s)
include h

/-- The same write of engine registers, one that does not read E_LAST_TICK. -/
theorem Alike.mapEngine (f : Engine → Engine)
    (hf : ∀ e x, f { e with lastTick := x } = { f e with lastTick := (f { e with lastTick := x }).lastTick }) :
    Alike d { r with eng := f r.eng } { s with eng := f s.eng } := by
  refine ⟨h.cfg, ?_, h.draws⟩
  have heng := hf s.eng r.eng.lastTick
  rwa [← h.eng] at heng

theorem Alike.randomizeBase (hd : d.onBeat = .randomize) : Alike d (randomizeBase r) (randomizeBase s) := by
  have hfirst : SameDraws r s := h.draws.resolve_right fun hnone => hnone.2 hd
  have hdrawn : Alike d r.drawn.drawn.drawn s.drawn.drawn.drawn := ⟨h.cfg, h.eng, .inl hfirst.drawn.drawn.drawn⟩
  simp only [Machine.randomizeBase, hfirst.drawColor h.cfg, hfirst.drawn.drawColor h.cfg,
    hfirst.drawn.drawn.drawColor h.cfg]
  exact hdrawn.mapEngine (fun e => { e with base := _ }) fun _ _ => rfl

theorem Alike.recolor : Alike d (recolor d r) (recolor d s) := by
  cases hd : d.onBeat with
  | keep => rwa [recolor_of_keep r hd, recolor_of_keep s hd]
  | randomize =>
    rw [recolor_of_randomize r hd, recolor_of_randomize s hd]
    exact h.randomizeBase hd
  | rotate =>
    rw [recolor_of_rotate r hd, recolor_of_rotate s hd]
    exact h.mapEngine (fun e => { e with base := ⟨e.base.panelB, e.base.bar, e.base.panelA⟩, rot := e.rot + 1 })
      fun _ _ => rfl

theorem Alike.beatActions : Alike d (beatActions d r) (beatActions d s) := by
  have hrecolored := (h.mapEngine (fun e => { e with toggle := !e.toggle }) fun _ _ => rfl).recolor
  unfold Machine.beatActions
  cases decays d.kind
  · exact hrecolored
  · exact hrecolored.mapEngine (fun e => { e with envelope := 65536 }) fun _ _ => rfl

theorem Alike.beatProc (ts : Time) : Alike d (beatProc d ts r) (beatProc d ts s) := by
  have hcounted : Alike d (countBeat ts r) (countBeat ts s) :=
    h.mapEngine (fun e => { e with beatCount := e.beatCount + 1, lastBeat := ts, lbValid := true }) fun _ _ => rfl
  have hcount : r.eng.beatCount = s.eng.beatCount := by rw [h.eng]
  by_cases hdiv : (s.eng.beatCount + 1).toNat % d.divider = 0
  · rw [beatProc_of_divides ts hdiv, beatProc_of_divides ts (by rwa [hcount])]
    exact hcounted.beatActions
  · rw [beatProc_of_not_divides ts hdiv, beatProc_of_not_divides ts (by rwa [hcount])]
    exact hcounted

theorem Alike.tryBeat (ts : Time) : Alike d (tryBeat d ts r).2 (tryBeat d ts s).2 := by
  have hgate : debounced ts r.eng = debounced ts s.eng := by
    rw [h.eng]
    rfl
  rcases tryBeat_cases d ts s with ⟨hgated, e⟩ | ⟨hkind, hopen, e⟩ <;> rw [e]
  · rwa [tryBeat_of_gated (by rwa [hgate])]
  · rw [tryBeat_of_open hkind (hgate.trans hopen)]
    exact h.beatProc ts

theorem Alike.synthesize (now : Time) : Alike d (synthesize d now r).2 (synthesize d now s).2 := by
  have hdue : synthesisDue now r.eng = synthesisDue now s.eng := by
    rw [h.eng]
    rfl
  unfold Machine.synthesize
  rw [hdue]
  split
  · exact h.tryBeat now
  · exact h

/-- UPDATE notes the tick, so that the engines agree whole. -/
theorem Alike.noteTick (now : Time) : (noteTick now r).eng = (noteTick now s).eng := by
  rw [noteTick_eng, noteTick_eng, h.eng]

/-- GLITCH's draw is the same; the other kinds take none (42_engine_render.md R225). -/
theorem Alike.glitchDraw : (glitchDraw d r).1 = (glitchDraw d s).1 := by
  unfold Machine.glitchDraw
  split
  · rename_i hglitch
    exact (h.draws.resolve_right fun hnone => hnone.1 hglitch).draw 65536
  · rfl

/-- UPDATE leaves the same engine, and the channels a fixture owns read the same. -/
theorem Alike.updateWith (now : Time) (hr : Memory.wf r.ch = true) (hs : Memory.wf s.ch = true) :
    (updateWith d now r).2.eng = (updateWith d now s).2.eng ∧
      ∀ i, ownedCell s.eng.addr i = true →
        (updateWith d now r).2.channel i = (updateWith d now s).2.channel i := by
  have hbeat := h.synthesize now
  have heng := hbeat.noteTick now
  have hdraw : (Machine.glitchDraw d (Machine.noteTick now (Machine.synthesize d now r).2)).1 =
      (Machine.glitchDraw d (Machine.noteTick now (Machine.synthesize d now s).2)).1 :=
    Alike.glitchDraw ⟨hbeat.cfg, heng, hbeat.draws⟩
  simp only [Machine.updateWith, State.channel_eq, paint_eq, heng, hdraw, true_and]
  intro i hi
  refine Memory.read_writeAll_congr ?_ ?_ (exists_lookCell ?_ _)
  · rwa [noteTick_ch, (synthesize_frame d now r).2]
  · rwa [noteTick_ch, (synthesize_frame d now s).2]
  · rw [noteTick_eng]
    rwa [← synthesize_addr d now s] at hi

end Preserved

/-! ## SET_PRESET and UPDATE -/

/-- UPDATE, where it goes on under a table entry, is `updateWith` with that entry, and its answer. -/
theorem exec_update_next {now : Time} {s t : State} {d : Descriptor}
    (hentry : s.cfg.presetTable[s.eng.preset.toNat]? = some d) (h : exec (.update now) s = .next t) :
    t.eng = (updateWith d now s).2.eng ∧ t.ch = (updateWith d now s).2.ch := by
  obtain ⟨p, hp, rfl⟩ := answerProcessed_next h
  obtain ⟨d', hready, rfl⟩ := updateOp_ok hp
  obtain ⟨hentry', -, -⟩ := activeDesc_ok (updateReady_ok hready).1
  obtain rfl : d = d' := Option.some.inj (hentry.symm.trans hentry')
  exact ⟨rfl, rfl⟩

/-- SET_PRESET clears what the two states differ in, but for E_LAST_TICK (41_engine_control.md R180, R181). -/
theorem alike_selectPreset {r s : State} (id : BitVec 8) {d : Descriptor} (hcfg : r.cfg = s.cfg)
    (hplace : SameBeatAndPlace r.eng s.eng) (hdraws : SameDraws r s ∨ d.kind ≠ .glitch ∧ d.onBeat ≠ .randomize) :
    Alike d (r.selectPreset id d) (s.selectPreset id d) := by
  obtain ⟨hbeat, hvalid, hmode, haddr, hbpm⟩ := hplace
  refine ⟨hcfg, ?_, hdraws⟩
  simp only [State.selectPreset, hbeat, hvalid, hmode, haddr, hbpm]

end Sys2Proof.Machine

namespace Sys2Proof.Proofs
open Sys2Proof.Machine

/-- Settles O44: after SET_PRESET the states are alike (`alike_selectPreset`), which UPDATE cannot tell apart
(`Alike.updateWith`). -/
theorem noResidueAfterSetPreset : Obligations.NoResidueAfterSetPreset := by
  intro r s a b t u id now d hcfg hplace hr hs hentry hdraws ha hb ht hu
  have hentry' : r.cfg.presetTable[id.toNat]? = some d := hcfg ▸ hentry
  obtain rfl : r.selectPreset id d = a := Host.Outcome.next.inj ((exec_setPreset_of_entry hentry').symm.trans ha)
  obtain rfl : s.selectPreset id d = b := Host.Outcome.next.inj ((exec_setPreset_of_entry hentry).symm.trans hb)
  obtain ⟨hteng, htch⟩ := exec_update_next (d := d) hentry' ht
  obtain ⟨hueng, huch⟩ := exec_update_next (d := d) hentry hu
  obtain ⟨heng, hch⟩ := (alike_selectPreset id hcfg hplace hdraws).updateWith now hr hs
  refine ⟨hteng.trans (heng.trans hueng.symm), fun i hi => ?_⟩
  rw [State.channel_eq, State.channel_eq, htch, huch]
  exact hch i hi

end Sys2Proof.Proofs
end

section
/-! PROOFS. What UPDATE shows (42_engine_render.md R210 to R217, 20_memory.md R77, R78): the writes of a look, read back
fixture by fixture. -/

namespace Sys2Proof.Machine

/-! ## The cells of a look -/

/-- The cells one fixture's shade is written to. -/
def shadeCells (a : PerFixture (BitVec 10)) (l : PerFixture Shade) (f : Fixture) : List Host.Cell :=
  fixtureCells (PerFixture.get a f) (shownBytes f (PerFixture.get l f).1 (PerFixture.get l f).2)

theorem lookCells_eq (a : PerFixture (BitVec 10)) (l : PerFixture Shade) :
    lookCells a l = shadeCells a l .panelA ++ shadeCells a l .panelB ++ shadeCells a l .bar := rfl

theorem length_shownBytes (f : Fixture) (c : Color) (b : Nat) : (shownBytes f c b).length = f.width := by
  cases f <;> rfl

theorem ownsCell_iff {a : PerFixture (BitVec 10)} {f : Fixture} {i : Nat} :
    ownsCell a f i = true ↔ baseOf a f ≤ i ∧ i < baseOf a f + f.width := by
  simp only [ownsCell, Bool.and_eq_true, decide_eq_true_eq]

/-- Where a fixture's cells lie. -/
theorem mem_fixtureCells_bounds {base : BitVec 10} {bytes : List Byte} {c : Host.Cell}
    (h : c ∈ fixtureCells base bytes) : base.toNat ≤ c.1 ∧ c.1 < base.toNat + bytes.length := by
  obtain ⟨x, hx, rfl⟩ := List.mem_map.1 h
  have hlt := (List.mem_zipIdx hx).2.1
  dsimp only
  omega

theorem shadeCells_owned {a : PerFixture (BitVec 10)} {l : PerFixture Shade} {f : Fixture} {c : Host.Cell}
    (h : c ∈ shadeCells a l f) : ownsCell a f c.1 = true := by
  have hbounds := mem_fixtureCells_bounds h
  rw [length_shownBytes] at hbounds
  exact ownsCell_iff.2 hbounds

/-- A fixture's cells, cut at its `o`-th channel; the cells behind the cut have later addresses. -/
theorem fixtureCells_split (base : BitVec 10) {bytes : List Byte} {o : Nat} (ho : o < bytes.length) :
    ∃ before after, fixtureCells base bytes = before ++ (base.toNat + o, bytes.getD o 0) :: after ∧
      ∀ c ∈ after, c.1 ≠ base.toNat + o := by
  have hcut : bytes = bytes.take o ++ bytes.getD o 0 :: bytes.drop (o + 1) := by
    rw [List.getD_eq_getElem _ _ ho, List.cons_getElem_drop_succ, List.take_append_drop]
  refine ⟨(bytes.take o).zipIdx.map fun p => (base.toNat + p.2, p.1),
    ((bytes.drop (o + 1)).zipIdx (o + 1)).map fun p => (base.toNat + p.2, p.1), ?_, ?_⟩
  · rw [fixtureCells]
    conv_lhs => rw [hcut]
    rw [List.zipIdx_append, List.zipIdx_cons, List.map_append, List.map_cons, List.length_take,
      Nat.min_eq_left ho.le, Nat.zero_add]
  · intro c hc
    obtain ⟨x, hx, rfl⟩ := List.mem_map.1 hc
    have hle := (List.mem_zipIdx hx).1
    dsimp only
    omega

/-! ## What the fixtures show -/

/-- A fixture shows its shade once the cells written after its own belong to later fixtures (20_memory.md R78). -/
theorem shows_of_writes {a : PerFixture (BitVec 10)} {l : PerFixture Shade} {f : Fixture} {t : State} {m : Memory}
    {before after : List Host.Cell} (hm : Memory.wf m = true)
    (hch : t.ch = Memory.writeAll m (before ++ shadeCells a l f ++ after))
    (hafter : ∀ c ∈ after, laterOwns a f c.1 = true) :
    Shows t a f (PerFixture.get l f).1 (PerFixture.get l f).2 := by
  intro o ho hfree
  obtain ⟨pre, post, hsplit, hpost⟩ := fixtureCells_split (PerFixture.get a f)
    (bytes := shownBytes f (PerFixture.get l f).1 (PerFixture.get l f).2) (o := o) (by rwa [length_shownBytes])
  rw [State.channel_eq, hch, shadeCells, hsplit, List.append_assoc, List.append_assoc, List.cons_append,
    ← List.append_assoc]
  refine Memory.read_writeAll_last hm fun c hc => ?_
  rcases List.mem_append.1 hc with hc | hc
  · exact hpost c hc
  · intro heq
    have howned := hafter c hc
    rw [heq] at howned
    exact Bool.false_ne_true (hfree.symm.trans howned)

/-- Writing a look makes the fixtures show it. -/
theorem showsLook_of_writes {a : PerFixture (BitVec 10)} {l : PerFixture Shade} {t : State} {m : Memory}
    (hm : Memory.wf m = true) (hch : t.ch = Memory.writeAll m (lookCells a l)) : ShowsLook t a l := by
  rw [lookCells_eq] at hch
  refine ⟨shows_of_writes (f := .panelA) (before := []) hm (by rw [hch, List.append_assoc]; rfl) fun c hc => ?_,
    shows_of_writes (f := .panelB) hm hch fun c hc => shadeCells_owned hc,
    shows_of_writes (f := .bar) (after := []) hm (by rw [hch, List.append_nil]) (by simp)⟩
  rw [laterOwns, Bool.or_eq_true]
  exact (List.mem_append.1 hc).imp shadeCells_owned shadeCells_owned

/-- An owned channel belongs to a last fixture, at some place of its range. -/
theorem exists_lastOwner {a : PerFixture (BitVec 10)} {i : Nat} (h : ownedCell a i = true) :
    ∃ f o, o < f.width ∧ i = baseOf a f + o ∧ laterOwns a f i = false := by
  have place : ∀ f, ownsCell a f i = true → ∃ o, o < f.width ∧ i = baseOf a f + o := fun f hf => by
    obtain ⟨hfirst, hlast⟩ := ownsCell_iff.1 hf
    exact ⟨i - baseOf a f, by omega, by omega⟩
  cases hbar : ownsCell a .bar i with
  | true =>
    obtain ⟨o, ho, hi⟩ := place .bar hbar
    exact ⟨.bar, o, ho, hi, rfl⟩
  | false =>
    cases hpanelB : ownsCell a .panelB i with
    | true =>
      obtain ⟨o, ho, hi⟩ := place .panelB hpanelB
      exact ⟨.panelB, o, ho, hi, hbar⟩
    | false =>
      rw [ownedCell, hpanelB, hbar, Bool.or_false, Bool.or_false] at h
      obtain ⟨o, ho, hi⟩ := place .panelA h
      exact ⟨.panelA, o, ho, hi, by rw [laterOwns, hpanelB, hbar]; rfl⟩

theorem ShowsLook.shows {t : State} {a : PerFixture (BitVec 10)} {l : PerFixture Shade} (h : ShowsLook t a l)
    (f : Fixture) : Shows t a f (PerFixture.get l f).1 (PerFixture.get l f).2 := by
  cases f
  · exact h.panelA
  · exact h.panelB
  · exact h.bar

theorem shownBytes_dark (f : Fixture) : shownBytes f black 0 = List.replicate f.width 0 := by
  cases f <;> decide

/-- Under the dark look every owned channel is 0 (42_engine_render.md R212). -/
theorem ShowsLook.dark {t : State} {a : PerFixture (BitVec 10)} (h : ShowsLook t a (sameShade black 0)) {i : Nat}
    (hi : ownedCell a i = true) : t.channel i = 0 := by
  obtain ⟨f, o, ho, rfl, hlast⟩ := exists_lastOwner hi
  have hdark : PerFixture.get (sameShade black 0) f = (black, 0) := by cases f <;> rfl
  have hshown := h.shows f o ho hlast
  rw [hdark, shownBytes_dark] at hshown
  simpa [ho] using hshown

end Sys2Proof.Machine
end

section
/-! PROOFS. UPDATE (42_engine_render.md R210, R211, R212, R230): the synthesized beat, the engine after both duties, and
the channels it leaves alone. -/

namespace Sys2Proof.Machine
open Sys2Proof.Laws

/-! ## The synthesized beat -/

/-- A beat is due (42_engine_render.md R211). -/
theorem synthesisDue_iff {now : Time} {e : Engine} : synthesisDue now e = true ↔ e.audioReactive = true ∧
    (e.lbValid = false ∨ 60000000 / e.bpm.toNat < now.toNat - e.lastBeat.toNat) := by
  simp only [synthesisDue, Bool.and_eq_true, Bool.or_eq_true, Bool.not_eq_true', decide_eq_true_eq]
  rfl

/-- A synthesized beat is one that is due and passes the gates of ON_BEAT (41_engine_control.md R190). -/
theorem synthesizesAt_iff {s : State} {d : Descriptor} {now : Time} : SynthesizesAt s d now ↔
    synthesisDue now s.eng = true ∧ d.kind ≠ .blackout ∧ debounced now s.eng = false := by
  rw [SynthesizesAt, synthesisDue_iff, ← Bool.not_eq_true (debounced now s.eng), debounced_iff, and_assoc]

section Synthesis
variable {s : State} {d : Descriptor} {now : Time}

theorem synthesize_of_due (h : SynthesizesAt s d now) : synthesize d now s = (true, beatProc d now s) := by
  obtain ⟨hdue, hkind, hopen⟩ := synthesizesAt_iff.1 h
  rw [synthesize, if_pos hdue, tryBeat_of_open hkind hopen]

theorem synthesize_of_not_due (h : ¬SynthesizesAt s d now) : synthesize d now s = (false, s) := by
  rcases synthesize_cases d now s with e | ⟨hdue, hkind, hopen, -⟩
  · exact e
  · exact absurd (synthesizesAt_iff.2 ⟨hdue, hkind, hopen⟩) h

theorem synthesize_fst_iff : (synthesize d now s).1 = true ↔ SynthesizesAt s d now := by
  by_cases h : SynthesizesAt s d now
  · simp only [synthesize_of_due h, h]
  · simp only [synthesize_of_not_due h, h, Bool.false_eq_true]

/-- Under the blackout no beat is synthesized (41_engine_control.md R190). -/
theorem synthesize_of_blackout (hkind : d.kind = .blackout) : synthesize d now s = (false, s) :=
  synthesize_of_not_due fun h => by
    obtain ⟨-, hlit, -⟩ := synthesizesAt_iff.1 h
    exact hlit hkind

/-- A beat draws only to randomize the base colours (41_engine_control.md R194). -/
theorem beatProc_env (hbeat : d.onBeat ≠ .randomize) (ts : Time) : (beatProc d ts s).env = s.env := by
  have hrecolor : ∀ u : State, (recolor d u).env = u.env := fun u => by
    cases hd : d.onBeat with
    | keep => rw [recolor_of_keep u hd]
    | randomize => exact absurd hd hbeat
    | rotate =>
      rw [recolor_of_rotate u hd]
      rfl
  by_cases hdiv : (s.eng.beatCount + 1).toNat % d.divider = 0
  · rw [beatProc_of_divides ts hdiv, beatActions]
    cases decays d.kind <;> exact hrecolor _
  · rw [beatProc_of_not_divides ts hdiv]
    rfl

theorem synthesize_env (hbeat : d.onBeat ≠ .randomize) : (synthesize d now s).2.env = s.env := by
  rcases synthesize_cases d now s with e | ⟨-, -, -, e⟩ <;> rw [e]
  exact beatProc_env hbeat now

end Synthesis

/-! ## The state after UPDATE -/

/-- E_LAST_TICK plays no part in a look. -/
theorem look_lastTick (d : Descriptor) (e : Engine) (x now : Time) (u : Nat) :
    look d { e with lastTick := x } now u = look d e now u := rfl

/-- The draw GLITCH makes after the first duty (42_engine_render.md R225); 0 under the other kinds. -/
def updateDraw (d : Descriptor) (now : Time) (s : State) : Nat :=
  (glitchDraw d (noteTick now (synthesize d now s).2)).1

/-- `s` after UPDATE(now) under `d` and its answer. -/
def afterUpdate (d : Descriptor) (now : Time) (s : State) : State :=
  (updateWith d now s).2.respondOk (processedBit (synthesize d now s).1)

section AfterUpdate
variable {s : State} {d : Descriptor} (now : Time)

theorem exec_update_of (h : Renderable s d) : exec (.update now) s = .next (afterUpdate d now s) := by
  have hop : updateOp now s = .ok (updateWith d now s) := by rw [updateOp, updateReady_of h]
  exact congrArg answerProcessed hop

theorem afterUpdate_answered : AnsweredEngine s (afterUpdate d now s) [if (synthesize d now s).1 then 1 else 0] :=
  answeredEngine_of_render (updateWith_frame d now s) _

theorem afterUpdate_eng : (afterUpdate d now s).eng =
    { (synthesize d now s).2.eng with
      lastTick := now
      envelope := if decays d.kind then decayed (synthesize d now s).2.eng.envelope
        else (synthesize d now s).2.eng.envelope } := by
  rw [afterUpdate, State.respondOk_eng, updateWith, paint_eq, noteTick_eng]

theorem afterUpdate_env :
    (afterUpdate d now s).env = (glitchDraw d (noteTick now (synthesize d now s).2)).2.env := by
  rw [afterUpdate, State.respondOk_env, updateWith, paint_eq]

theorem afterUpdate_ch : (afterUpdate d now s).ch =
    Memory.writeAll s.ch (lookCells s.eng.addr (look d (synthesize d now s).2.eng now (updateDraw d now s))) := by
  rw [afterUpdate, State.respondOk_ch, updateWith, paint_eq, noteTick_ch, noteTick_eng, look_lastTick,
    (synthesize_frame d now s).2, synthesize_addr, updateDraw]

/-- UPDATE writes no channel a fixture does not own (20_memory.md R77). -/
theorem afterUpdate_unowned : UnownedSame s (afterUpdate d now s) s.eng.addr := by
  intro i hi
  rw [State.channel_eq, State.channel_eq, afterUpdate_ch]
  refine Memory.read_writeAll_other fun c hc heq => ?_
  have howned := lookCells_owned hc
  rw [heq, hi] at howned
  exact Bool.false_ne_true howned

theorem afterUpdate_updated (h : ActiveIs s d) :
    Updated s (afterUpdate d now s) d now (synthesize d now s).2.eng where
  beat hbeat := by
    rw [synthesize_of_due hbeat]
    exact beatProc_processed now h.palette
  still hstill := by rw [synthesize_of_not_due hstill]
  engine := by
    rw [afterUpdate_eng]
    simp only [decays_iff]
    rfl
  unowned := afterUpdate_unowned now

/-- The fixtures show the look of the engine after the first duty (42_engine_render.md R210, R217). -/
theorem afterUpdate_showsLook (h : Renderable s d) : ShowsLook (afterUpdate d now s) s.eng.addr
    (look d (synthesize d now s).2.eng now (updateDraw d now s)) :=
  showsLook_of_writes h.canonical (afterUpdate_ch now)

end AfterUpdate

/-- UPDATE's promise for every kind: a look, of the engine `e` after the first duty. -/
theorem exec_update_shows {s : State} {d : Descriptor} (now : Time) (h : Renderable s d) :
    ∃ t e u, exec (.update now) s = .next t ∧ Updated s t d now e ∧ ShowsLook t s.eng.addr (look d e now u) :=
  ⟨_, _, _, exec_update_of now h, afterUpdate_updated now h.toActiveIs, afterUpdate_showsLook now h⟩

end Sys2Proof.Machine

namespace Sys2Proof.Proofs
open Sys2Proof.Machine

/-- Settles O36: the state after UPDATE is `afterUpdate`; the beat it answers is `synthesize_fst_iff`. -/
theorem update : Obligations.Update := by
  refine ⟨fun s d now h => ⟨_, _, _, exec_update_of now h, synthesize_fst_iff, afterUpdate_answered now,
    afterUpdate_updated now h.toActiveIs, fun hkind hstill => ?_⟩, zeroBitsRefused_of_mask (by decide) (by decide)⟩
  rw [afterUpdate_env, glitchDraw, if_neg hkind, synthesize_of_not_due hstill]
  rfl

/-- Settles O37: the blackout synthesizes no beat, takes no draw and does not decay; its look is the dark one
(`ShowsLook.dark`). -/
theorem updateBlackout : Obligations.UpdateBlackout := by
  intro s d now h hkind
  have hshows := afterUpdate_showsLook now h
  have heng := afterUpdate_eng (s := s) (d := d) now
  have henv := afterUpdate_env (s := s) (d := d) now
  have hanswer := (afterUpdate_answered (s := s) (d := d) now).1
  rw [look, hkind] at hshows
  rw [synthesize_of_blackout hkind, hkind] at heng
  rw [synthesize_of_blackout hkind, glitchDraw, hkind, if_neg (by decide)] at henv
  rw [synthesize_of_blackout hkind, heng, henv] at hanswer
  exact ⟨_, exec_update_of now h, hanswer, afterUpdate_unowned now, fun i hi => hshows.dark hi⟩

end Sys2Proof.Proofs
end

section
/-! PROOFS. The looks of the nine kinds (42_engine_render.md R220 to R229), each read from `exec_update_shows` with
the kind's own formula. -/

namespace Sys2Proof.Machine

/-! ## Brightness, flashes and pairs -/

theorem onOff_eq (on : Bool) : onOff on = if on = true then 65536 else 0 := rfl

/-- A flash is on in every second period (42_engine_render.md R223, R228). -/
theorem onOff_flashOn (now : Time) (hz : Nat) :
    onOff (flashOn now hz) = if now.toNat * hz / 1000000 % 2 = 0 then 65536 else 0 := by
  simp only [onOff_eq, flashOn, beq_iff_eq]
  rfl

/-- TWO_TONE_FLASH is at full brightness but for the alarm's dark halves (42_engine_render.md R228). -/
theorem toneBrightness_eq (alarm : Bool) (now : Time) (hz : Nat) :
    (if alarm then onOff (flashOn now hz) else q16One) =
      if alarm = false ∨ now.toNat * hz / 1000000 % 2 = 0 then 65536 else 0 := by
  cases alarm with
  | false => simp [q16One]
  | true => simp [onOff_flashOn]

/-- The model reads its lists with a default, which plays no part within their length. -/
theorem getElem?_eq_getD {α : Type} {l : List α} {i : Nat} (h : i < l.length) (x : α) :
    l[i]? = some (l.getD i x) := by
  rw [List.getD_eq_getElem _ _ h, List.getElem?_eq_getElem h]

/-- What a well-formed descriptor promises of its period and its pairs (42_engine_render.md R250). -/
theorem Descriptor.ok_of_wf {d : Descriptor} (h : d.wf = true) : d.periodOk = true ∧ d.pairsOk = true := by
  simp only [Descriptor.wf, Bool.and_eq_true] at h
  obtain ⟨⟨⟨-, hperiod⟩, hpairs⟩, -⟩ := h
  exact ⟨hperiod, hpairs⟩

theorem Descriptor.periodUs_pos {d : Descriptor} (h : d.wf = true)
    (hkind : d.kind = .rainbowHue ∨ d.kind = .crossfade) : 1 ≤ d.periodUs := by
  obtain ⟨hperiod, -⟩ := Descriptor.ok_of_wf h
  rcases hkind with hkind | hkind <;>
    simp only [Descriptor.periodOk, hkind, Bool.and_eq_true, decide_eq_true_eq] at hperiod <;> omega

theorem Descriptor.pairs_length_cyclic {d : Descriptor} (h : d.wf = true) (hkind : d.kind = .cyclicPalette) :
    d.pairs.length = 4 := by
  obtain ⟨-, hpairs⟩ := Descriptor.ok_of_wf h
  simpa only [Descriptor.pairsOk, hkind, beq_iff_eq] using hpairs

theorem Descriptor.pairs_length_twoTone {d : Descriptor} (h : d.wf = true) (hkind : d.kind = .twoToneFlash) :
    d.pairs.length = 2 := by
  obtain ⟨-, hpairs⟩ := Descriptor.ok_of_wf h
  simpa only [Descriptor.pairsOk, hkind, beq_iff_eq] using hpairs

/-! ## Phase, sine and mixing (42_engine_render.md R214, R221, R229) -/

/-- A phase is below one turn. -/
theorem phase_lt (now : Time) {p : Nat} (hp : 1 ≤ p) : phase now p < 65536 := by
  have hmod : now.toNat % p < p := Nat.mod_lt _ hp
  rw [phase, Nat.div_lt_iff_lt_mul hp]
  omega

/-- S1. -/
theorem sine_bounds (p : Nat) : -32767 ≤ sine p ∧ sine p ≤ 32767 := by
  unfold sine
  split_ifs <;> omega

/-- The breath's brightness is never negative, so that its natural number is the formula's (R221). -/
theorem breathBrightness_cast (p : Nat) : (breathBrightness (sine p) : Int) =
    (425 * 32767 + 375 * sine p) * 65536 / (1000 * 32767) := by
  have hlow := (sine_bounds p).1
  rw [breathBrightness, Int.toNat_of_nonneg]
  omega

/-- The mixing factor is the formula's and at most 1.0 (R229). -/
theorem mixFactor_cast (p : Nat) : (mixFactor (sine p) : Int) = (32767 + sine p) * 65536 / 65534 ∧
    mixFactor (sine p) ≤ 65536 := by
  obtain ⟨hlow, hhigh⟩ := sine_bounds p
  have hcast : (mixFactor (sine p) : Int) = (32767 + sine p) * 65536 / 65534 := by
    rw [mixFactor, Int.toNat_of_nonneg]
    omega
  exact ⟨hcast, by omega⟩

/-- A mixed component lies between the two it mixes, so that it fits its byte (R229). -/
theorem toNat_mix (c0 c1 : Byte) {m : Nat} (hm : m ≤ 65536) :
    (mix c0 c1 m).toNat = (c0.toNat * (65536 - m) + c1.toNat * m) / 65536 := by
  have h0 : c0.toNat * (65536 - m) ≤ 255 * (65536 - m) := Nat.mul_le_mul_right _ (by omega)
  have h1 : c1.toNat * m ≤ 255 * m := Nat.mul_le_mul_right _ (by omega)
  rw [mix, BitVec.toNat_ofNat, q16One]
  exact Nat.mod_eq_of_lt (by omega)

/-- The beat's engine keeps the tempo (41_engine_control.md R192). -/
theorem Updated.bpm {s t : State} {d : Descriptor} {now : Time} {e : Engine} (h : Updated s t d now e) :
    e.bpm = s.eng.bpm := by
  by_cases hbeat : SynthesizesAt s d now
  · obtain ⟨-, -, -, -, hbpm⟩ := (h.beat hbeat).kept
    exact hbpm
  · rw [h.still hbeat]

end Sys2Proof.Machine

namespace Sys2Proof.Proofs
open Sys2Proof.Machine

/-- Settles O38: the looks of the two decaying kinds; the palette's index is below 4, the length of `pairs`. -/
theorem updateDecayKinds : Obligations.UpdateDecayKinds := by
  intro s d now h
  obtain ⟨t, e, u, hexec, hupdated, hshows⟩ := exec_update_shows now h
  refine ⟨fun hkind => ?_, fun hkind => ?_⟩ <;> rw [look, hkind] at hshows
  · exact ⟨t, e, hexec, hupdated, hshows⟩
  · have hlt : e.beatCount.toNat / 2 % 4 < d.pairs.length := by
      rw [Descriptor.pairs_length_cyclic h.wf hkind]
      omega
    exact ⟨t, e, _, _, hexec, hupdated, getElem?_eq_getD hlt (black, black), hshows⟩

/-- Settles O39: the looks of the two kinds that follow the sine, at the formulas' values. -/
theorem updateSineKinds : Obligations.UpdateSineKinds := by
  intro s d now h
  obtain ⟨t, e, u, hexec, hupdated, hshows⟩ := exec_update_shows now h
  refine ⟨fun hkind => ?_, fun hkind => ?_⟩ <;> rw [look, hkind] at hshows
  · rw [lookSineBreath, hupdated.bpm] at hshows
    exact ⟨t, e, _, _, hexec, hupdated, rfl, breathBrightness_cast _, hshows⟩
  · obtain ⟨hcast, hle⟩ := mixFactor_cast (phase now d.periodUs)
    exact ⟨t, e, _, mixColor e.base.panelA e.base.panelB (mixFactor (sine (phase now d.periodUs))), hexec, hupdated,
      hcast, toNat_mix _ _ hle, toNat_mix _ _ hle, toNat_mix _ _ hle, hshows⟩

/-- Settles O40: the looks of the two kinds that follow TIME; the phase of the hue is below one turn. -/
theorem updateTimeKinds : Obligations.UpdateTimeKinds := by
  intro s d now h
  obtain ⟨t, e, u, hexec, hupdated, hshows⟩ := exec_update_shows now h
  refine ⟨fun hkind => ?_, fun hkind => ?_⟩ <;> rw [look, hkind] at hshows
  · have hturn : phase now d.periodUs % 65536 = phase now d.periodUs :=
      Nat.mod_eq_of_lt (phase_lt now (Descriptor.periodUs_pos h.wf (.inl hkind)))
    simp only [lookRainbowHue, hturn] at hshows
    exact ⟨t, e, phase now d.periodUs, hexec, hupdated, rfl, hshows⟩
  · rw [lookStrobe] at hshows
    exact ⟨t, e, _, hexec, hupdated, onOff_flashOn now strobeHz, hshows⟩

/-- Settles O41: `u` is the draw after the first duty, which takes none unless the descriptor randomizes
(`synthesize_env`). -/
theorem updateGlitch : Obligations.UpdateGlitch := by
  intro s d now h hkind
  have hshows := afterUpdate_showsLook now h
  rw [look, hkind] at hshows
  have hdraw : glitchDraw d (noteTick now (synthesize d now s).2) =
      ((noteTick now (synthesize d now s).2).draw 65536, (noteTick now (synthesize d now s).2).drawn) := if_pos hkind
  have hu : updateDraw d now s = (synthesize d now s).2.draw 65536 := congrArg Prod.fst hdraw
  have henv := afterUpdate_env (s := s) (d := d) now
  rw [hdraw, State.drawn_env, noteTick_env] at henv
  refine ⟨_, _, updateDraw d now s, _, exec_update_of now h, afterUpdate_updated now h.toActiveIs, ?_, rfl, hshows,
    fun hbeat => ?_⟩
  · rw [hu]
    exact Nat.mod_lt _ (by decide)
  · rw [synthesize_env hbeat] at henv
    rw [henv, hu, State.draw, synthesize_env hbeat]
    refine ⟨rfl, fun u0 rest hdraws => ?_⟩
    rw [hdraws]
    exact ⟨rfl, rfl⟩

/-- Settles O42: the looks of the two kinds that follow the toggle; its number is below 2, the length of `pairs`. -/
theorem updateToggleKinds : Obligations.UpdateToggleKinds := by
  intro s d now h
  obtain ⟨t, e, u, hexec, hupdated, hshows⟩ := exec_update_shows now h
  refine ⟨fun hkind => ?_, fun hkind => ?_⟩ <;> rw [look, hkind] at hshows
  · refine ⟨t, e, hexec, hupdated, ?_⟩
    cases htoggle : e.toggle <;> rw [lookAlternating, htoggle] at hshows <;> exact hshows
  · have hlt : e.toggle.toNat < d.pairs.length := by
      rw [Descriptor.pairs_length_twoTone h.wf hkind]
      exact Bool.toNat_lt _
    exact ⟨t, e, _, _, _, hexec, hupdated, getElem?_eq_getD hlt (black, black), toneBrightness_eq _ _ _, hshows⟩

end Sys2Proof.Proofs
end

section
/-! PROOFS. The envelope's decay (42_engine_render.md R230) and the numerics functions (42_engine_render.md R214, R215,
40_beat_detector.md R142, R143, 00_scope.md R12). -/

namespace Sys2Proof.Machine

/-! ## The decay -/

/-- One step of the decay; the quotient fits the register (42_engine_render.md R230). -/
theorem toNat_decayed (e : BitVec 17) : (decayed e).toNat = e.toNat * 17 / 20 := by
  have hfits := e.isLt
  rw [decayed, BitVec.toNat_ofNat, decayNum, decayDen]
  exact Nat.mod_eq_of_lt (by omega)

theorem decayed_zero : decayed 0 = 0 := by decide

/-- 59 steps leave the last non-zero value, the next one ends the decay. -/
theorem decayed_iterate_59 : decayed^[59] 65536 = 1 := by decide +kernel

/-- Once the envelope is 0 it stays 0. -/
theorem decayed_iterate_zero {e : BitVec 17} {k n : Nat} (hkn : k ≤ n) (hk : decayed^[k] e = 0) :
    decayed^[n] e = 0 := by
  obtain ⟨m, rfl⟩ := Nat.exists_eq_add_of_le' hkn
  rw [Function.iterate_add_apply, hk, Function.iterate_fixed decayed_zero]

/-- The envelope is 0 from the 60th step on and not before. -/
theorem decayed_iterate_eq_zero_iff (k : Nat) : decayed^[k] 65536 = 0 ↔ 60 ≤ k := by
  constructor
  · intro hk
    by_contra hlt
    have hzero := decayed_iterate_zero (n := 59) (by omega) hk
    rw [decayed_iterate_59] at hzero
    exact absurd hzero (by decide)
  · intro hk
    refine decayed_iterate_zero hk ?_
    rw [Function.iterate_succ_apply', decayed_iterate_59]
    decide

/-! ## Hue (42_engine_render.md R215) -/

/-- A component below 256 fits its byte. -/
theorem toNat_byte {n : Nat} (h : n ≤ 255) : (BitVec.ofNat 8 n).toNat = n := by
  rw [BitVec.toNat_ofNat]
  exact Nat.mod_eq_of_lt (by omega)

/-- The colours of the six sectors, rising or falling by `up`. -/
def sectorColors (up : Nat) : List (Nat × Nat × Nat) :=
  [(255, up, 0), (255 - up, 255, 0), (0, 255, up), (0, 255 - up, 255), (up, 0, 255), (255, 0, 255 - up)]

/-- HUE2RGB is its sector's colour. -/
theorem hue2rgb_sector {h : Nat} (hh : h < 65536) :
    (sectorColors (255 * (h * 6 % 65536) / 65536))[h * 6 / 65536]? =
      some ((hue2rgb h).r.toNat, (hue2rgb h).g.toNat, (hue2rgb h).b.toNat) := by
  have hup := toNat_byte (n := 255 * (h * 6 % 65536) / 65536) (by omega)
  have hdown := toNat_byte (n := 255 - 255 * (h * 6 % 65536) / 65536) (by omega)
  have hsector : h * 6 / 65536 < 6 := by omega
  simp only [hue2rgb, sectorColors]
  generalize 255 * (h * 6 % 65536) / 65536 = up at hup hdown ⊢
  generalize h * 6 / 65536 = sector at hsector ⊢
  interval_cases sector <;> simp only [List.getElem?_cons_zero, List.getElem?_cons_succ, hup, hdown] <;> rfl

/-! ## Magnitudes and the band (40_beat_detector.md R142, R143) -/

/-- P3. -/
theorem length_magnitudes (frame : List Sample) : (magnitudes frame).length = frame.length / 2 + 1 := by
  rw [magnitudes, List.length_map, List.length_range, nBins]

/-- P4. -/
theorem magnitudes_silence {frame : List Sample} (hsilent : ∀ x ∈ frame, x = 0) {m : Magnitude}
    (hm : m ∈ magnitudes frame) : m = 0 := by
  have hall : frame.all (· == 0) = true := List.all_eq_true.2 fun x hx => beq_iff_eq.2 (hsilent x hx)
  obtain ⟨k, -, rfl⟩ := List.mem_map.1 hm
  exact if_pos hall

theorem mem_band_iff {c : Cfg} {k : Nat} : k ∈ band c ↔ k ≤ c.frameLen / 2 ∧
    c.bandLoHz * c.frameLen ≤ k * 44100 ∧ k * 44100 ≤ c.bandHiHz * c.frameLen := by
  simp only [band, nBins, List.mem_filter, List.mem_range, Nat.lt_succ_iff, Bool.and_eq_true, decide_eq_true_eq]
  rfl

/-! ## Brightness (00_scope.md R12) -/

/-- A scaled component is at most the component, so that it fits its byte. -/
theorem toNat_scale (c : Byte) {b : Nat} (hb : b ≤ 65536) : (scale c b).toNat = c.toNat * b / 65536 := by
  have hmul : c.toNat * b ≤ 255 * 65536 := Nat.mul_le_mul (by omega) hb
  rw [scale, q16One, toNat_byte (by omega)]

theorem scale_full (c : Byte) : scale c 65536 = c :=
  BitVec.eq_of_toNat_eq (by rw [toNat_scale c (Nat.le_refl _), Nat.mul_div_cancel _ (by decide)])

theorem scale_dark (c : Byte) : scale c 0 = 0 :=
  BitVec.eq_of_toNat_eq (by rw [toNat_scale c (Nat.zero_le _), Nat.mul_zero]; rfl)

end Sys2Proof.Machine

namespace Sys2Proof.Proofs
open Sys2Proof.Machine

/-- Settles O43: the first values are evaluated; where the decay ends is `decayed_iterate_eq_zero_iff`. -/
theorem envelopeDecay : Obligations.EnvelopeDecay :=
  ⟨by decide, by decide, by decide, by decide, by decide, toNat_decayed, decayed_iterate_eq_zero_iff⟩

/-- Settles O45, one lemma for each function; SIN's anchors and the two bands are evaluated. -/
theorem numerics : Obligations.Numerics := by
  refine ⟨sine_bounds, rfl, rfl, rfl, rfl, fun now _ => phase_lt now, fun h sector up hh hsector hup => ?_,
    length_magnitudes, fun _ hsilent _ => magnitudes_silence hsilent, fun c => ⟨scale_full c, scale_dark c⟩,
    fun c _ => toNat_scale c, fun _ _ => mem_band_iff, by decide +kernel, by decide +kernel⟩
  rw [hsector, hup]
  exact hue2rgb_sector hh

end Sys2Proof.Proofs
end

section
/-! PROOFS. The transmit loop (43_transport.md R275 to R286): which of its steps is taken when, and what each one
leaves of T_SNAP and FRAMES. -/

namespace Sys2Proof.Machine

/-! ## Which step is taken -/

section Due
variable {s : State} (hrun : s.loops.runTx = true)
include hrun

/-- From T_NEXT_START on the loop takes TOP, late or not (43_transport.md R276). -/
theorem txStep_of_top (hp : atTop s.tx.phase = true) (hdue : txDue s ≤ s.time.toNat) :
    txStep s = .next (txTop s) := by
  have he : txEnabled s = true := txEnabled_iff.2 ⟨hrun, by rwa [if_pos hp]⟩
  unfold txStep
  rw [he]
  cases hphase : s.tx.phase with
  | idle | sleep | pause => rfl
  | breakLow | mab | data => rw [hphase] at hp; cases hp

/-- Inside a cycle the step of the phase is taken exactly when it is due (43_transport.md R276). -/
theorem txEnabled_of_due (hp : atTop s.tx.phase = false) (hdue : s.time.toNat = txDue s) : txEnabled s = true :=
  txEnabled_iff.2 ⟨hrun, by rwa [if_neg (by rw [hp]; exact Bool.noConfusion)]⟩

theorem txStep_of_break (hphase : s.tx.phase = .breakLow) (hdue : s.time.toNat = txDue s) :
    txStep s = .next (txBreak s) := by
  have he := txEnabled_of_due hrun (by rw [hphase]; rfl) hdue
  simp [txStep, he, hphase]

theorem txStep_of_mab (hphase : s.tx.phase = .mab) (hdue : s.time.toNat = txDue s) :
    txStep s = .next (txMab s) := by
  have he := txEnabled_of_due hrun (by rw [hphase]; rfl) hdue
  simp [txStep, he, hphase]

theorem txStep_of_data (hphase : s.tx.phase = .data) (hdue : s.time.toNat = txDue s) : txStep s = txData s := by
  have he := txEnabled_of_due hrun (by rw [hphase]; rfl) hdue
  simp [txStep, he, hphase]

end Due

/-- Before T_NEXT_START TOP is not taken (43_transport.md R276). -/
theorem txStep_top_early {s : State} (hp : atTop s.tx.phase = true)
    (h : s.loops.runTx = false ∨ s.time.toNat < txDue s) : txStep s = .next s := by
  have he : txEnabled s = false := by
    rw [Bool.eq_false_iff, Ne, txEnabled_iff, if_pos hp]
    rintro ⟨hrun, hdue⟩
    rcases h with h | h
    · exact Bool.noConfusion (h.symm.trans hrun)
    · omega
  simp [txStep, he]

/-! ## What a step leaves of the snapshot and the frames -/

theorem txTop_frames (s : State) : (txTop s).tx.snap = s.tx.snap ∧ (txTop s).tx.frames = s.tx.frames := by
  unfold txTop
  split
  · exact ⟨rfl, rfl⟩
  · split <;> exact ⟨rfl, rfl⟩

/-- END: the pacing decides T_NEXT_START and LOG, the rest is the frame and the idle line (43_transport.md R280,
R281, R284). -/
theorem txEnd_eq (s : State) : txEnd s = { s with
    tx := { s.tx with
      line := true, phase := .sleep, nextStart := (txPace s).tx.nextStart
      frames := s.tx.frames ++ [{ start := s.tx.cycleStart, bytes := s.tx.snap }] }
    log := (txPace s).log } := by
  unfold txEnd txPace
  split <;> rfl

/-- A step of the transmit loop leaves T_SNAP and FRAMES, or takes the snapshot, or ends slot N and so the frame
(43_transport.md R279, R284). -/
theorem txStep_snapshot_cases {s t : State} (h : txStep s = .next t) :
    (t.tx.snap = s.tx.snap ∧ t.tx.frames = s.tx.frames) ∨
      (s.tx.phase = .mab ∧ s.sinkOk = true ∧ t = (txSnapshot s).askedSink) ∨
      (s.tx.phase = .data ∧ s.n ≤ s.tx.slot.toNat ∧ t = txEnd s) := by
  rcases txStep_next h with ⟨-, rfl⟩ | ⟨-, ⟨-, rfl⟩ | ⟨-, rfl⟩ | ⟨hmab, rfl⟩ | ⟨hdata, hd⟩⟩
  · exact .inl ⟨rfl, rfl⟩
  · exact .inl (txTop_frames s)
  · exact .inl ⟨rfl, rfl⟩
  · unfold txMab
    cases hok : s.sinkOk
    · exact .inl ⟨rfl, rfl⟩
    · exact .inr (.inl ⟨hmab, rfl, rfl⟩)
  · obtain ⟨d, -, ⟨-, rfl⟩ | ⟨-, -, rfl⟩ | ⟨-, hslot, rfl⟩⟩ := txData_next hd
    · exact .inl ⟨rfl, rfl⟩
    · exact .inl ⟨rfl, rfl⟩
    · exact .inr (.inr ⟨hdata, hslot, rfl⟩)

end Sys2Proof.Machine

namespace Sys2Proof.Proofs
open Sys2Proof.Machine

/-- Settles O56: no other agent writes T_SNAP or FRAMES (`step_owned`); of the transmit loop's own steps only the
snapshot and END do (`txStep_snapshot_cases`). -/
theorem framesAreSnapshots : Obligations.FramesAreSnapshots := by
  intro s t h hm
  by_cases hmove : s.nextMove = .tx
  · have hstep : txStep s.takeMove = .next t := by simpa only [step, hmove, perform] using h
    rcases txStep_snapshot_cases hstep with ⟨hsnap, hframes⟩ | ⟨hphase, hok, rfl⟩ | ⟨hphase, hslot, rfl⟩
    · exact ⟨.inl hsnap, .inl hframes⟩
    · exact ⟨.inr ⟨hmove, hphase, rfl, hok, rfl⟩, .inl rfl⟩
    · rw [txEnd_eq]
      exact ⟨.inl rfl, .inr ⟨hmove, hphase, hslot, rfl, rfl, rfl, rfl⟩⟩
  · obtain ⟨hsnap, -, -, -, hframes, -⟩ := (step_owned h hm).cycle hmove
    exact ⟨.inl hsnap, .inl hframes⟩

end Sys2Proof.Proofs
end

section
/-! PROOFS. The line's timing, and the transmit loop's steps phase by phase: TOP, BREAK, MAB, DATA and END
(43_transport.md R275 to R286, 30_encoding.md R115). -/

namespace Sys2Proof.Machine

/-! ## Durations and bits -/

theorem bitUs_eq : bitUs = 4 := by decide

/-- A BREAK_BAUD that divides a second loses nothing when the bit time is rounded (00_scope.md R7). -/
theorem slowBits {c : Cfg} (hc : c.Wf) (n : Nat) :
    n * (microsPerSecond / c.breakBaud) = n * microsPerSecond / c.breakBaud :=
  (Nat.mul_div_assoc n hc.break_baud.1).symm

/-- Every break and mark is long enough for a receiver (43_transport.md R277, R278, R283). -/
theorem breakAndMark_le {c : Cfg} (hc : c.Wf) : 88 ≤ lowUs c ∧ 8 ≤ highUs c := by
  obtain ⟨-, hlow, hhigh⟩ := hc.break_baud
  unfold lowUs highUs
  cases c.breakMode with
  | trueBreak =>
    show 88 ≤ breakUs ∧ 8 ≤ mabUs
    decide
  | baudDrop =>
    dsimp only
    rw [slowBits hc, slowBits hc]
    exact ⟨hlow, hhigh⟩

/-- A slot has bits 0 to 10, and no others. -/
theorem getElem?_slotBits {d : Byte} {k : Nat} {level : Bool} (h : (slotBits d)[k]? = some level) :
    k < bitsPerSlot ∧ slotBit d k = level := by
  obtain ⟨hk, hlevel⟩ := List.getElem?_eq_some_iff.1 h
  have hlt : k < bitsPerSlot := by simpa [slotBits] using hk
  exact ⟨hlt, by simpa [slotBits] using hlevel⟩

/-- When the bit or the end of the slot is due, in microseconds (43_transport.md R276). -/
theorem txDue_data_eq {s : State} (hphase : s.tx.phase = .data) : txDue s =
    s.tx.cycleStart.toNat + lowUs s.cfg + highUs s.cfg + 44 * s.tx.slot.toNat + 4 * s.tx.bit := by
  rw [txDue_data hphase, slotUs_eq, bitUs_eq]
  rfl

/-! ## The steps -/

/-- In the phases in which TOP is next, T_NEXT_START is its deadline. -/
theorem txDue_top {s : State} (h : s.tx.phase = .idle ∨ s.tx.phase = .sleep ∨ s.tx.phase = .pause) :
    atTop s.tx.phase = true ∧ txDue s = s.tx.nextStart.toNat := by
  unfold txDue
  rcases h with h | h | h <;> rw [h] <;> exact ⟨rfl, rfl⟩

theorem txDue_break {s : State} (h : s.tx.phase = .breakLow) :
    txDue s = s.tx.cycleStart.toNat + lowUs s.cfg := by
  simp only [txDue, h]

theorem txDue_mab {s : State} (h : s.tx.phase = .mab) :
    txDue s = s.tx.cycleStart.toNat + lowUs s.cfg + highUs s.cfg := by
  simp only [txDue, h]
  rfl

/-- In a cycle whose write will succeed the line shows what the core drives (43_transport.md R277, R278). -/
theorem driven_of_sinkOk {s : State} (h : s.sinkOk = true) (level mark : Bool) (duration : Nat) :
    driven s level mark = level ∧
      drivenTrace s level duration = [{ level := level, start := s.time.toNat, duration := duration }] := by
  rw [driven, drivenTrace, if_pos h, if_pos h]
  exact ⟨rfl, rfl⟩

/-- Channel `i` stands at index `i` of the snapshot (43_transport.md R279). -/
theorem getElem?_snapshot {s : State} {i : Nat} (hfirst : 1 ≤ i) (hlast : i ≤ s.n) :
    (snapshot s)[i]? = some (s.channel i) := by
  obtain ⟨k, rfl⟩ := Nat.exists_eq_add_of_le' hfirst
  simp [snapshot, List.getElem?_range (show k < s.n by omega)]

section Data
variable {s : State} {d : Byte} (hbyte : s.tx.snap[s.tx.slot.toNat]? = some d)
include hbyte

theorem txData_of_bit (hbit : s.tx.bit < bitsPerSlot) : txData s = .next (txBit d s) := by
  simp only [txData, hbyte, if_pos hbit]

theorem txData_of_slot (hbit : s.tx.bit = 11) (hslot : s.tx.slot.toNat < s.n) : txData s = .next (txNextSlot s) := by
  simp only [txData, hbyte, hbit, bitsPerSlot, Nat.lt_irrefl, if_false, if_pos hslot]

theorem txData_of_end (hbit : s.tx.bit = 11) (hslot : s.tx.slot.toNat = s.n) : txData s = .next (txEnd s) := by
  simp only [txData, hbyte, hbit, bitsPerSlot, Nat.lt_irrefl, if_false, if_neg hslot.ge.not_gt]

end Data

/-- At the end of slot N the cycle has taken its break, its mark and N + 1 slots (43_transport.md R281). -/
theorem elapsedUs_at_end {s : State} (hphase : s.tx.phase = .data) (hdue : s.time.toNat = txDue s)
    (hbit : s.tx.bit = 11) (hslot : s.tx.slot.toNat = s.n) :
    elapsedUs s = lowUs s.cfg + highUs s.cfg + 44 * (s.n + 1) := by
  rw [txDue_data_eq hphase] at hdue
  simp only [elapsedUs, satSub]
  omega

theorem txPace_in_time {s : State} (h : elapsedUs s ≤ periodUs s.cfg) : txPace s =
    { s with tx := { s.tx with nextStart := later s.tx.cycleStart (periodUs s.cfg) } } :=
  if_neg (Nat.not_lt.2 h)

theorem txPace_overrun {s : State} (h : periodUs s.cfg < elapsedUs s) : txPace s =
    { s.appendLog .overrunWarning .tx (BitVec.ofNat 16 (min 65535 (elapsedUs s - periodUs s.cfg))) with
      tx := { s.tx with nextStart := s.time } } :=
  if_pos h

end Sys2Proof.Machine

namespace Sys2Proof.Proofs
open Sys2Proof.Machine

/-- Settles O52: the durations by their definitions, their lower bounds by `breakAndMark_le`. -/
theorem lineTiming : Obligations.LineTiming := by
  refine ⟨bitUs_eq, by decide, fun c hmode => ?_, fun c hmode => ?_, fun c => breakAndMark_le, fun c => rfl,
    fun d => rfl⟩
  · rw [lowUs, highUs, hmode]
    exact ⟨rfl, rfl⟩
  · rw [lowUs, highUs, hmode]
    exact ⟨rfl, rfl⟩

/-- Settles O53: TOP is taken from T_NEXT_START on, and its three outcomes are the branches of `txTop`. -/
theorem transmitTop : Obligations.TransmitTop := by
  intro s hphase
  obtain ⟨htop, hdueEq⟩ := txDue_top hphase
  rw [← hdueEq]
  refine ⟨txStep_top_early htop, fun hrun hdue => ?_⟩
  have hstep : perform .tx s = .next (txTop s) := txStep_of_top hrun htop hdue
  rw [hstep]
  refine ⟨fun hstop => ?_, fun hstop hvirtual => ?_, fun hstop hreal => ⟨txTopBreak s, ?_, rfl, fun hok => ?_⟩⟩
  · rw [txTop, hstop]
    rfl
  · rw [txTop, hstop, hvirtual]
    rfl
  · rw [txTop, hstop, hreal]
    rfl
  · obtain ⟨hline, htrace⟩ := driven_of_sinkOk hok false false (lowUs s.cfg)
    exact ⟨hline, congrArg (s.tx.lineTrace ++ ·) htrace⟩

/-- Settles O54: in both phases the step is taken exactly when it is due (`txStep_not_due` else); MAB's two outcomes
are the snapshot and FAIL. -/
theorem transmitMarkAndSnapshot : Obligations.TransmitMarkAndSnapshot := by
  refine ⟨fun s hphase hnot => ?_, fun s hphase hnot => ?_, fun s hrun => ⟨fun hphase hdue => ?_, fun hphase hdue => ?_⟩⟩
  · rw [← txDue_break hphase] at hnot
    exact txStep_not_due (by rw [hphase]; rfl) hnot
  · rw [← txDue_mab hphase] at hnot
    exact txStep_not_due (by rw [hphase]; rfl) hnot
  · rw [← txDue_break hphase] at hdue
    refine ⟨_, txStep_of_break hrun hphase hdue, rfl, fun hok => ?_⟩
    obtain ⟨hline, htrace⟩ := driven_of_sinkOk hok true true (highUs s.cfg)
    exact ⟨hline, congrArg (s.tx.lineTrace ++ ·) htrace⟩
  · rw [← txDue_mab hphase] at hdue
    have hstep : perform .tx s = .next (txMab s) := txStep_of_mab hrun hphase hdue
    rw [hstep, txMab]
    refine ⟨fun hok => ⟨(txSnapshot s).askedSink, by rw [if_pos hok], rfl, snapshot_length s, rfl, fun i => ?_⟩,
      fun hfail => ⟨(txFail s).askedSink, ?_, rfl⟩⟩
    · exact getElem?_snapshot
    · rw [hfail]
      rfl

/-- Settles O55: DATA takes the bit, the next slot or END (`txData_of_bit`, `txData_of_slot`, `txData_of_end`), and
END's two paces are those of `txPace`. -/
theorem transmitDataAndEnd : Obligations.TransmitDataAndEnd := by
  refine ⟨fun s hphase hnot => ?_, fun s d hrun hphase hbyte hdue => ?_⟩
  · rw [← txDue_data_eq hphase] at hnot
    exact txStep_not_due (by rw [hphase]; rfl) hnot
  rw [← txDue_data_eq hphase] at hdue
  have hstep : perform .tx s = txData s := txStep_of_data hrun hphase hdue
  rw [hstep]
  refine ⟨fun level hlevel => ?_, txData_of_slot hbyte, fun hbit hslot => ?_⟩
  · obtain ⟨hbit, rfl⟩ := getElem?_slotBits hlevel
    rw [txData_of_bit hbyte hbit, txBit, bitUs_eq]
  · refine ⟨txEnd s, elapsedUs s, txData_of_end hbyte hbit hslot, elapsedUs_at_end hphase hdue hbit hslot, ?_, ?_⟩
    · rw [txEnd_eq]
    rw [txEnd_eq]
    refine ⟨fun hfits => ?_, fun hover => ?_⟩
    · rw [txPace_in_time hfits]
      exact ⟨rfl, rfl⟩
    · rw [txPace_overrun hover]
      exact ⟨rfl, rfl⟩

end Sys2Proof.Proofs
end

section
/-! PROOFS. The buffer accessors of the transport (43_transport.md R260 to R265). SET_CHANNEL is SET_CHANNELS of one
pair, so the check and the write are shown once, for a map. -/

namespace Sys2Proof.Machine
open Sys2Proof.Laws

/-! ## Operands in range -/

theorem channelIndex?_of_inRange {n : Nat} {idx : BitVec 12} (h : 1 ≤ idx.toNat ∧ idx.toNat ≤ n) :
    channelIndex? n idx = some idx.toNat := by
  simp [channelIndex?, h]

theorem channelIndex?_of_outside {n : Nat} {idx : BitVec 12} (h : idx.toNat < 1 ∨ n < idx.toNat) :
    channelIndex? n idx = none :=
  if_neg (by simp only [Bool.and_eq_true, decide_eq_true_eq]; omega)

theorem byteValue?_of_inRange {val : BitVec 12} (h : 0 ≤ val.toInt ∧ val.toInt ≤ 255) :
    byteValue? val = some (BitVec.ofInt 8 val.toInt) := by
  simp [byteValue?, h]

theorem byteValue?_of_outside {val : BitVec 12} (h : val.toInt < 0 ∨ 255 < val.toInt) : byteValue? val = none :=
  if_neg (by simp only [Bool.and_eq_true, decide_eq_true_eq]; omega)

/-- A value in range is the number its byte stands for. -/
theorem toNat_ofInt_byte {v : Int} (h : 0 ≤ v ∧ v ≤ 255) : ((BitVec.ofInt 8 v).toNat : Int) = v := by
  rw [BitVec.toNat_ofInt]
  omega

/-- The cell a pair in range writes. -/
def pairCell (p : Pair) : Host.Cell := (p.idx.toNat, BitVec.ofInt 8 p.val.toInt)

theorem pairCell?_of_inRange {n : Nat} {p : Pair} (h : pairInRange n p) : pairCell? n p = some (pairCell p) := by
  obtain ⟨hfirst, hlast, hbyte⟩ := h
  rw [pairCell?, channelIndex?_of_inRange ⟨hfirst, hlast⟩, byteValue?_of_inRange hbyte]
  rfl

theorem pairCell?_of_outside {n : Nat} {p : Pair} (h : ¬pairInRange n p) : pairCell? n p = none := by
  by_cases hidx : 1 ≤ p.idx.toNat ∧ p.idx.toNat ≤ n
  · have hbyte : p.val.toInt < 0 ∨ 255 < p.val.toInt := by
      unfold pairInRange at h
      omega
    rw [pairCell?, channelIndex?_of_inRange hidx, byteValue?_of_outside hbyte]
  · rw [pairCell?, channelIndex?_of_outside (by omega)]

/-! ## SET_CHANNELS and SET_CHANNEL -/

theorem firstBadPair?_of_inRange {n : Nat} {pairs : List Pair} (h : ∀ p ∈ pairs, pairInRange n p) :
    firstBadPair? n pairs = none :=
  List.find?_eq_none.2 fun p hp => by simp [pairCell?_of_inRange (h p hp)]

theorem firstBadPair?_of_split {n : Nat} {before after : List Pair} {p : Pair} (h : ∀ q ∈ before, pairInRange n q)
    (hp : ¬pairInRange n p) : firstBadPair? n (before ++ p :: after) = some p :=
  List.find?_eq_some_iff_append.2 ⟨by simp [pairCell?_of_outside hp], before, after, rfl,
    fun q hq => by simp [pairCell?_of_inRange (h q hq)]⟩

theorem pairCells_of_inRange {n : Nat} {pairs : List Pair} (h : ∀ p ∈ pairs, pairInRange n p) :
    pairCells n pairs = pairs.map pairCell := by
  rw [pairCells, ← List.filterMap_eq_map]
  exact List.filterMap_congr fun p hp => pairCell?_of_inRange (h p hp)

theorem exec_setChannels_of_inRange {pairs : List Pair} {s : State} (h : ∀ p ∈ pairs, pairInRange s.n p) :
    exec (.setChannels pairs) s = .next ((s.writeChannels (pairs.map pairCell)).respondOk 0) := by
  simp only [exec, execSetChannels, firstBadPair?_of_inRange h, pairCells_of_inRange h]

theorem exec_setChannels_of_bad {before after : List Pair} {p : Pair} {s : State}
    (h : ∀ q ∈ before, pairInRange s.n q) (hp : ¬pairInRange s.n p) :
    exec (.setChannels (before ++ p :: after)) s = .next (s.refuse .validationError (infoIndexValue p.idx p.val)) := by
  simp only [exec, execSetChannels, firstBadPair?_of_split h hp, raise]

theorem responseWord_infoIndexValue (c : ResultCode) (idx val : BitVec 12) :
    responseWord c (infoIndexValue idx val) = codeByte c ++ idx ++ val := by
  apply BitVec.eq_of_toNat_eq
  simp only [responseWord, infoIndexValue, append_toNat]
  omega

theorem refuse_infoIndexValue (s : State) (idx val : BitVec 12) :
    AnsweredOnly s (s.refuse .validationError (infoIndexValue idx val)) [(0x01#8 ++ idx ++ val : Word)] := by
  rw [State.refuse, responseWord_infoIndexValue]
  rfl

/-- An accessor that wrote the channels and answered OK. -/
theorem answeredChannels_of_writes (s : State) (cells : List Host.Cell) :
    AnsweredChannels s ((s.writeChannels cells).respondOk 0) [0] := rfl

/-- Both commands run the same check and the same write (43_transport.md R260, R261). -/
theorem exec_setChannel_eq (idx val : BitVec 12) (s : State) :
    exec (.setChannel idx val) s = exec (.setChannels [⟨idx, val⟩]) s := by
  simp only [exec, execSetChannel, execSetChannels, firstBadPair?, pairCells, pairCell?, List.find?, List.filterMap]
  cases channelIndex? s.n idx with
  | none => rfl
  | some i => cases byteValue? val <;> rfl

/-! ## GET_CHANNEL, BLACKOUT and SET_ALL -/

theorem exec_getChannel_of_inRange {idx : BitVec 12} {s : State} (h : 1 ≤ idx.toNat ∧ idx.toNat ≤ s.n) :
    exec (.getChannel idx) s = .next (s.respond [(s.channel idx.toNat).zeroExtend 32]) := by
  rw [← responseWord_ok_zeroExtend (by decide)]
  simp only [exec, execGetChannel, channelIndex?_of_inRange h]
  rfl

theorem exec_getChannel_of_outside {idx : BitVec 12} {s : State} (h : idx.toNat < 1 ∨ s.n < idx.toNat) :
    exec (.getChannel idx) s = .next (s.refuse .validationError (infoIndexValue idx 0)) := by
  simp only [exec, execGetChannel, channelIndex?_of_outside h, raise]

theorem exec_setAll_of_inRange {val : BitVec 12} {s : State} (h : 0 ≤ val.toInt ∧ val.toInt ≤ 255) :
    exec (.setAll val) s = .next ((s.fillChannels (BitVec.ofInt 8 val.toInt)).respondOk 0) := by
  simp only [exec, execSetAll, byteValue?_of_inRange h]

/-- SET_ALL's refusal is that of a pair with index 0 (30_encoding.md R114). -/
theorem exec_setAll_of_outside {val : BitVec 12} {s : State} (h : val.toInt < 0 ∨ 255 < val.toInt) :
    exec (.setAll val) s = .next (s.refuse .validationError (infoIndexValue 0 val)) := by
  have hinfo : infoIndexValue 0 val = infoValue val := rfl
  simp only [exec, execSetAll, byteValue?_of_outside h, raise, hinfo]

/-- A fill writes the channels 1..N and leaves every other cell (43_transport.md R263, R264). -/
theorem fillChannels_channel (s : State) (v : Byte) (j : Nat) :
    (s.fillChannels v).channel j = if 1 ≤ j ∧ j ≤ s.n then v else s.channel j := by
  split
  next hinside => exact Memory.read_fill_inside v hinside
  next houtside => exact Memory.read_fill_outside v (by omega)

/-! ### What an answer leaves of N, RESP and the channels -/

theorem AnsweredChannels.resp {s t : State} {ws : List Word} (h : AnsweredChannels s t ws) : t.resp = s.resp ++ ws := by
  rw [h]

theorem AnsweredChannels.n {s t : State} {ws : List Word} (h : AnsweredChannels s t ws) : t.n = s.n := by
  rw [h]
  rfl

theorem AnsweredOnly.resp {s t : State} {ws : List Word} (h : AnsweredOnly s t ws) : t.resp = s.resp ++ ws := by
  rw [h]

theorem AnsweredOnly.channel {s t : State} {ws : List Word} (h : AnsweredOnly s t ws) (i : Nat) :
    t.channel i = s.channel i := by
  rw [h]
  rfl

end Sys2Proof.Machine

namespace Sys2Proof.Proofs
open Sys2Proof.Machine

/-- Settles O23: with every pair in range the map writes its cells in order, so the last write of a channel is the one
that is read; else the first pair out of range is found. -/
theorem setChannels : Obligations.SetChannels := by
  refine ⟨fun pairs s hwf hall => ?_, fun before after p s hbefore hp => ?_⟩
  · refine ⟨_, exec_setChannels_of_inRange hall, answeredChannels_of_writes s _, fun before p after hsplit hlast => ?_,
      fun j hj => ?_⟩
    · obtain ⟨-, -, hbyte⟩ := hall p (by simp [hsplit])
      have hafter : ∀ c ∈ after.map pairCell, c.1 ≠ p.idx.toNat := by
        intro c hc
        obtain ⟨q, hq, rfl⟩ := List.mem_map.1 hc
        exact fun heq => hlast q hq (BitVec.eq_of_toNat_eq heq)
      have hread : Memory.read (Memory.writeAll s.ch (pairs.map pairCell)) p.idx.toNat = BitVec.ofInt 8 p.val.toInt := by
        rw [hsplit, List.map_append, List.map_cons]
        exact Memory.read_writeAll_last hwf hafter
      exact (congrArg (fun b : Byte => (b.toNat : Int)) hread).trans (toNat_ofInt_byte hbyte)
    · refine Memory.read_writeAll_other fun c hc => ?_
      obtain ⟨q, hq, rfl⟩ := List.mem_map.1 hc
      exact hj q hq
  · exact ⟨_, exec_setChannels_of_bad hbefore hp, refuse_infoIndexValue s p.idx p.val⟩

/-- Settles O22: SET_CHANNEL is SET_CHANNELS of one pair (`exec_setChannel_eq`). -/
theorem setChannel : Obligations.SetChannel := by
  intro idx val s hwf
  rw [exec_setChannel_eq]
  refine ⟨fun hin => ?_, fun hout => ?_⟩
  · obtain ⟨t, hexec, hanswer, hwritten, hkept⟩ := setChannels.1 [⟨idx, val⟩] s hwf (List.forall_mem_singleton.2 hin)
    exact ⟨t, hexec, hanswer, hwritten [] ⟨idx, val⟩ [] rfl (fun _ hq => absurd hq List.not_mem_nil),
      fun j hj => hkept j (List.forall_mem_singleton.2 hj.symm)⟩
  · have hbad : ¬pairInRange s.n ⟨idx, val⟩ := by
      unfold pairInRange
      dsimp only
      omega
    exact setChannels.2 [] [] ⟨idx, val⟩ s (fun _ hq => absurd hq List.not_mem_nil) hbad

/-- Settles O24: the two branches of the index check, and `zeroBitsRefused_of_mask`. -/
theorem getChannel : Obligations.GetChannel := by
  refine ⟨fun idx s => ⟨fun hin => ?_, fun hout => ?_⟩, zeroBitsRefused_of_mask (by decide) (by decide)⟩
  · exact ⟨_, exec_getChannel_of_inRange hin, rfl⟩
  · exact ⟨_, exec_getChannel_of_outside hout, refuse_infoIndexValue s idx 0⟩

/-- Settles O25: both commands are a fill (`fillChannels_channel`), SET_ALL behind the check of its value; the refusals
of headers are `zeroBitsRefused_of_mask`. -/
theorem fillCommands : Obligations.FillCommands := by
  refine ⟨fun s => ?_, fun val s hin => ?_, fun val s hout => ?_, zeroBitsRefused_of_mask (by decide) (by decide),
    zeroBitsRefused_of_mask (by decide) (by decide)⟩
  · exact ⟨(s.fillChannels 0).respondOk 0, rfl, rfl, fillChannels_channel s 0⟩
  · exact ⟨_, exec_setAll_of_inRange hin, rfl, fillChannels_channel s _⟩
  · exact ⟨_, exec_setAll_of_outside hout, refuse_infoIndexValue s 0 val⟩

/-- Settles O26 from O22, O24 and O25. -/
theorem bufferProperties : Obligations.BufferProperties := by
  intro s hwf
  refine ⟨fun idx val hfirst hlast hlow hhigh => ?_, fun idx val hout => ?_, ?_, fun hn => ?_⟩
  · obtain ⟨t, hset, hanswer, hvalue, -⟩ := (setChannel idx val s hwf).1 ⟨hfirst, hlast, hlow, hhigh⟩
    obtain ⟨u, hget, hread⟩ := (getChannel.1 idx t).1 ⟨hfirst, hanswer.n ▸ hlast⟩
    have hword : (t.channel idx.toNat).zeroExtend 32 = BitVec.ofInt 32 val.toInt := by
      apply BitVec.eq_of_toNat_eq
      have hbyte := (t.channel idx.toNat).isLt
      simp only [BitVec.truncate_eq_setWidth, BitVec.toNat_setWidth, BitVec.toNat_ofInt]
      omega
    refine ⟨t, u, hset, hget, ?_⟩
    rw [hread.resp, hanswer.resp, hword, List.append_assoc]
    rfl
  · obtain ⟨t, hset, hanswer⟩ := (setChannel idx val s hwf).2 (by omega)
    exact ⟨t, hset, hanswer.channel⟩
  · obtain ⟨t, hfill, hanswer, hzero⟩ := fillCommands.1 s
    refine ⟨t, hfill, fun idx hfirst hlast => ?_⟩
    obtain ⟨u, hget, hread⟩ := (getChannel.1 idx t).1 ⟨hfirst, hanswer.n ▸ hlast⟩
    rw [hzero, if_pos ⟨hfirst, hlast⟩] at hread
    exact ⟨u, hget, hread.resp⟩
  · have hout : s.n < (65 : BitVec 12).toNat := by
      rw [hn]
      decide
    obtain ⟨t, hset, hanswer⟩ := (setChannel 65 10 s hwf).2 (.inr (.inl hout))
    exact ⟨t, hset, hanswer.resp⟩

end Sys2Proof.Proofs
end

section
/-! PROOFS. No command but START and STOP depends on the transmit loop (43_transport.md R270): each commutes with putting
other transmit registers and loop flags in the place of a state's own. -/

namespace Sys2Proof.Machine

/-- `s` with other transmit registers and loop flags. -/
def State.withTransmit (s : State) (x : Transmit) (l : Loops) : State := { s with tx := x, loops := l }

/-- The same of what a command ends in. -/
def outcomeWithTransmit (x : Transmit) (l : Loops) :
    Host.Outcome State Fault Refusal → Host.Outcome State Fault Refusal
  | .next t => .next (t.withTransmit x l)
  | .fault f => .fault f
  | .refused r => .refused r

/-- The same of what a beat operation gives. -/
def beatWithTransmit (x : Transmit) (l : Loops) (p : Bool × State) : Bool × State := (p.1, p.2.withTransmit x l)

variable (s : State) (x : Transmit) (l : Loops)

@[simp] theorem State.withTransmit_cfg : (s.withTransmit x l).cfg = s.cfg := rfl
@[simp] theorem State.withTransmit_eng : (s.withTransmit x l).eng = s.eng := rfl
@[simp] theorem State.withTransmit_n : (s.withTransmit x l).n = s.n := rfl

/-! ## Beats -/

theorem recolor_withTransmit (d : Descriptor) :
    recolor d (s.withTransmit x l) = (recolor d s).withTransmit x l := by
  unfold recolor
  cases d.onBeat <;> rfl

theorem beatActions_withTransmit (d : Descriptor) :
    beatActions d (s.withTransmit x l) = (beatActions d s).withTransmit x l := by
  have hrecolor := recolor_withTransmit { s with eng := { s.eng with toggle := !s.eng.toggle } } x l d
  unfold beatActions
  cases decays d.kind
  · exact hrecolor
  · exact congrArg (fun u : State => { u with eng := { u.eng with envelope := 65536 } }) hrecolor

theorem beatProc_withTransmit (d : Descriptor) (ts : Time) :
    beatProc d ts (s.withTransmit x l) = (beatProc d ts s).withTransmit x l := by
  by_cases hdiv : (s.eng.beatCount + 1).toNat % d.divider = 0
  · rw [beatProc_of_divides ts hdiv, beatProc_of_divides (s := s.withTransmit x l) ts hdiv]
    exact beatActions_withTransmit (countBeat ts s) x l d
  · rw [beatProc_of_not_divides ts hdiv, beatProc_of_not_divides (s := s.withTransmit x l) ts hdiv]
    rfl

theorem tryBeat_withTransmit (d : Descriptor) (ts : Time) :
    tryBeat d ts (s.withTransmit x l) = beatWithTransmit x l (tryBeat d ts s) := by
  simp only [tryBeat, beatProc_withTransmit, State.withTransmit_eng]
  split
  · rfl
  · split <;> rfl

theorem trigger_withTransmit (ts : Time) :
    trigger ts (s.withTransmit x l) = (trigger ts s).map (beatWithTransmit x l) := by
  have hactive : activeDesc (s.withTransmit x l) = activeDesc s := rfl
  simp only [Machine.trigger, hactive, tryBeat_withTransmit]
  cases activeDesc s <;> rfl

theorem onBeat_withTransmit (ts : Time) :
    onBeat ts (s.withTransmit x l) = (onBeat ts s).map (beatWithTransmit x l) := by
  simp only [onBeat, trigger_withTransmit, State.withTransmit_eng]
  split <;> rfl

theorem answerProcessed_withTransmit (r : Except Fault (Bool × State)) :
    answerProcessed (r.map (beatWithTransmit x l)) = outcomeWithTransmit x l (answerProcessed r) := by
  cases r <;> rfl

/-! ## UPDATE -/

theorem synthesize_withTransmit (d : Descriptor) (now : Time) :
    synthesize d now (s.withTransmit x l) = beatWithTransmit x l (synthesize d now s) := by
  simp only [synthesize, tryBeat_withTransmit, State.withTransmit_eng]
  split <;> rfl

theorem paint_withTransmit (d : Descriptor) (now : Time) :
    paint d now (s.withTransmit x l) = (paint d now s).withTransmit x l := by
  have hdraw : glitchDraw d (s.withTransmit x l) = ((glitchDraw d s).1, (glitchDraw d s).2.withTransmit x l) := by
    unfold glitchDraw
    split <;> rfl
  rw [paint_eq, paint_eq, hdraw]
  unfold State.withTransmit
  dsimp only

theorem updateWith_withTransmit (d : Descriptor) (now : Time) :
    updateWith d now (s.withTransmit x l) = beatWithTransmit x l (updateWith d now s) := by
  unfold updateWith
  rw [synthesize_withTransmit]
  exact congrArg (Prod.mk (synthesize d now s).1) (paint_withTransmit (noteTick now (synthesize d now s).2) x l d now)

theorem updateOp_withTransmit (now : Time) :
    updateOp now (s.withTransmit x l) = (updateOp now s).map (beatWithTransmit x l) := by
  have hready : updateReady (s.withTransmit x l) = updateReady s := rfl
  simp only [updateOp, hready, updateWith_withTransmit]
  cases updateReady s <;> rfl

/-! ## The commands -/

/-- Every command but START and STOP does the same whatever the transmit loop is doing. -/
theorem exec_withTransmit {i : Instr} (hi : ∀ mask, i ≠ .start mask ∧ i ≠ .stop mask) :
    exec i (s.withTransmit x l) = outcomeWithTransmit x l (exec i s) := by
  cases i with
  | setChannel idx val =>
    simp only [exec, execSetChannel, State.withTransmit_n]
    cases channelIndex? s.n idx with
    | none => rfl
    | some i => cases byteValue? val <;> rfl
  | setChannels pairs =>
    simp only [exec, execSetChannels, State.withTransmit_n]
    cases firstBadPair? s.n pairs <;> rfl
  | getChannel idx =>
    simp only [exec, execGetChannel, State.withTransmit_n]
    cases channelIndex? s.n idx <;> rfl
  | blackout => rfl
  | setAll val =>
    simp only [exec, execSetAll]
    cases byteValue? val <;> rfl
  | setPreset id =>
    simp only [exec, execSetPreset, State.withTransmit_cfg]
    cases s.cfg.presetTable[id.toNat]? <;> rfl
  | setAudioReactive en => rfl
  | setAddress fix addr =>
    simp only [exec, execSetAddress, State.withTransmit_n]
    cases fixtureOf? fix with
    | none => rfl
    | some f => cases hfits : rangeFits s.n f addr.toNat <;> simp only [hfits] <;> rfl
  | getStatus => rfl
  | setBpm bpm =>
    simp only [exec, execSetBpm]
    split <;> rfl
  | beat ts =>
    simp only [exec, execBeat, onBeat_withTransmit, answerProcessed_withTransmit]
  | trigger ts =>
    simp only [exec, execTrigger, trigger_withTransmit, answerProcessed_withTransmit]
  | update now =>
    simp only [exec, execUpdate, updateOp_withTransmit, answerProcessed_withTransmit]
  | getVolume => rfl
  | start mask => exact absurd rfl (hi mask).1
  | stop mask => exact absurd rfl (hi mask).2

end Sys2Proof.Machine

namespace Sys2Proof.Proofs
open Sys2Proof.Machine

/-- Settles O27 by `exec_withTransmit`; that the command changes none of these registers is its case in which they are
replaced by themselves. -/
theorem commandsIgnoreTransmit : Obligations.CommandsIgnoreTransmit := by
  intro i s t x l hi h
  have hcommutes : ∀ y k, exec i (s.withTransmit y k) = .next (t.withTransmit y k) := fun y k => by
    rw [exec_withTransmit s y k hi, h]
    rfl
  have hsame : t = t.withTransmit s.tx s.loops :=
    Host.Outcome.next.inj (h.symm.trans (hcommutes s.tx s.loops))
  exact ⟨(congrArg State.tx hsame :), (congrArg State.loops hsame :), hcommutes x l⟩

end Sys2Proof.Proofs
end

section
/-! PROOFS. START, STOP and TICK (44_orchestrator.md R303 to R306): the devices asked, the loops started or asked to
stop, and the tick as an UPDATE. -/

namespace Sys2Proof.Machine

/-! ## The devices START asks (44_orchestrator.md R302, R303) -/

theorem askDevices_asked (mask : BitVec 3) (s : State) :
    Asked (audioNeeded mask s) (serialNeeded mask s) s (askDevices mask s) := by
  unfold askDevices
  cases audioNeeded mask s
  case false => cases serialNeeded mask s <;> exact ⟨rfl, rfl, rfl, rfl, rfl⟩
  case true => cases serialNeeded mask s <;> exact ⟨rfl, rfl, rfl, rfl, rfl⟩

/-- Whether the devices were asked is read off the environment alone. -/
theorem Asked.of_env {a b : Bool} {s t u : State} (h : Asked a b s u) (he : t.env = u.env) : Asked a b s t := by
  obtain ⟨haudio, hserial, haudios, hserials, hkept⟩ := h
  rw [← he] at haudio hserial haudios hserials hkept
  exact ⟨haudio, hserial, haudios, hserials, hkept⟩

/-- `s` once the devices were asked, with the virtual sink in the place of a serial device that failed
(44_orchestrator.md R304 (a)). -/
def devicesAnswered (mask : BitVec 3) (s : State) : State :=
  if serialOk mask s then askDevices mask s else degrade (askDevices mask s)

theorem devicesAnswered_eq (mask : BitVec 3) (s : State) : devicesAnswered mask s = { s with
    env := (askDevices mask s).env
    tx := { s.tx with virtualSink := s.tx.virtualSink || !serialOk mask s }
    log := if serialOk mask s then s.log else
      s.log ++ [{ code := .deviceError, agent := .tx, info := 1, time := s.time }] } := by
  have hframe := (askDevices_frame mask s).1
  unfold devicesAnswered
  generalize askDevices mask s = asked at hframe
  rw [hframe]
  cases serialOk mask s
  case false => simp [degrade, State.appendLog]
  case true => simp

/-! ## The loops START starts (44_orchestrator.md R303) -/

/-- The flags and the next tick once START(mask) started the loops it could. -/
def startedLoops (mask : BitVec 3) (aOk : Bool) (now : Time) (l : Loops) : Loops where
  runCapture := l.runCapture || (mask.getLsbD 0 && aOk)
  runTick := l.runTick || mask.getLsbD 1
  runTx := l.runTx || mask.getLsbD 2
  stopCapture := l.stopCapture && !(mask.getLsbD 0 && (l.runCapture || aOk))
  stopTick := l.stopTick && !mask.getLsbD 1
  stopTx := l.stopTx && !mask.getLsbD 2
  nextTick := if mask.getLsbD 1 = true ∧ l.runTick = false then now else l.nextTick

theorem startCapture_eq (named aOk : Bool) (s : State) :
    (if named then startCapture aOk s else s) = { s with
      loops := { s.loops with
        runCapture := s.loops.runCapture || (named && aOk)
        stopCapture := s.loops.stopCapture && !(named && (s.loops.runCapture || aOk)) }
      det := { s.det with
        failCnt := if named = true ∧ s.loops.runCapture = false ∧ aOk = true then 0 else s.det.failCnt }
      fa := { s.fa with
        cnt := if named = true ∧ s.loops.runCapture = false ∧ aOk = true then 0 else s.fa.cnt } } := by
  unfold startCapture
  cases named
  case false => simp
  case true =>
    cases hrun : s.loops.runCapture
    case true => simp [hrun]
    case false =>
      cases aOk
      · have hsame : { s with loops := { s.loops with runCapture := false } } = s := by rw [← hrun]
        simpa using hsame.symm
      · simp

theorem startTick_eq (named : Bool) (s : State) :
    (if named then startTick s else s) = { s with
      loops := { s.loops with
        runTick := s.loops.runTick || named
        stopTick := s.loops.stopTick && !named
        nextTick := if named = true ∧ s.loops.runTick = false then s.time else s.loops.nextTick } } := by
  unfold startTick
  cases named
  case false => simp
  case true => cases hrun : s.loops.runTick <;> simp [hrun]

theorem startTx_eq (named : Bool) (s : State) :
    (if named then startTx s else s) = { s with
      loops := { s.loops with
        runTx := s.loops.runTx || named
        stopTx := s.loops.stopTx && !named }
      tx := { s.tx with
        phase := if named = true ∧ s.loops.runTx = false then .idle else s.tx.phase
        nextStart := if named = true ∧ s.loops.runTx = false then s.time else s.tx.nextStart } } := by
  unfold startTx
  cases named
  case false => simp
  case true => cases hrun : s.loops.runTx <;> simp [hrun]

/-- START's three parts write different registers, so their order does not show. -/
theorem startLoops_eq (mask : BitVec 3) (aOk : Bool) (s : State) : startLoops mask aOk s = { s with
    loops := startedLoops mask aOk s.time s.loops
    det := { s.det with
      failCnt := if mask.getLsbD 0 = true ∧ s.loops.runCapture = false ∧ aOk = true then 0 else s.det.failCnt }
    fa := { s.fa with
      cnt := if mask.getLsbD 0 = true ∧ s.loops.runCapture = false ∧ aOk = true then 0 else s.fa.cnt }
    tx := { s.tx with
      phase := if mask.getLsbD 2 = true ∧ s.loops.runTx = false then .idle else s.tx.phase
      nextStart := if mask.getLsbD 2 = true ∧ s.loops.runTx = false then s.time else s.tx.nextStart } } := by
  unfold startLoops
  dsimp only
  rw [startCapture_eq, startTick_eq, startTx_eq]
  rfl

/-- The loops are started as R303 says, whatever START then answers. -/
theorem startLoops_started (mask : BitVec 3) (aOk : Bool) (s : State) (ws : List Word) :
    Started mask aOk s ((startLoops mask aOk s).respond ws) := by
  rw [startLoops_eq]
  exact ⟨rfl, rfl, rfl, rfl, rfl, rfl, rfl, rfl, rfl, rfl, rfl⟩

/-- What was asked of the devices, T_VIRTUAL and LOG play no part in which loops START starts. -/
theorem Started.of_asked {mask : BitVec 3} {aOk v : Bool} {s t : State} {e : Environment} {l : List LogRecord}
    (h : Started mask aOk { s with env := e, tx := { s.tx with virtualSink := v }, log := l } t) :
    Started mask aOk s t := { h with }

/-! ## The answers of START and STOP (30_encoding.md R112, R113) -/

theorem responseWord_runBits (l : Loops) : responseWord .ok (runBits l) =
    0#29 ++ BitVec.ofBool l.runTx ++ BitVec.ofBool l.runTick ++ BitVec.ofBool l.runCapture := by
  have hbits : ∀ a b c : Bool, responseWord .ok (0#21 ++ BitVec.ofBool a ++ BitVec.ofBool b ++ BitVec.ofBool c) =
      0#29 ++ BitVec.ofBool a ++ BitVec.ofBool b ++ BitVec.ofBool c := by decide
  exact hbits _ _ _

theorem responseWord_fatal (aOk : Bool) :
    responseWord .deviceError (4 + if aOk then 0 else 1) = if aOk then 0x03000004 else 0x03000005 := by
  revert aOk
  decide

/-- START without its serial device and without a fallback (44_orchestrator.md R304 (b)). -/
theorem startResult_fatal {mask : BitVec 3} {s : State} (hserial : serialOk mask s = false)
    (hfallback : s.cfg.fallbackEn = false) : startResult mask s =
      (askDevices mask s).respond [if audioOk mask s then 0x03000004 else 0x03000005] := by
  simp only [startResult, hserial, hfallback, Bool.not_false, Bool.and_self, if_true]
  rw [State.refuse, responseWord_fatal]

/-- START with its serial device or a fallback starts the loops and answers by the audio device
(44_orchestrator.md R304 (a), (c)). -/
theorem startResult_started {mask : BitVec 3} {s : State}
    (h : serialOk mask s = true ∨ s.cfg.fallbackEn = true) :
    ∃ t, t = startLoops mask (audioOk mask s) (devicesAnswered mask s) ∧
      startResult mask s = t.respond [if audioOk mask s then
          0#29 ++ BitVec.ofBool t.loops.runTx ++ BitVec.ofBool t.loops.runTick ++ BitVec.ofBool t.loops.runCapture
        else 0x03000001] := by
  have hgo : (!serialOk mask s && !s.cfg.fallbackEn) = false := by
    rcases h with h | h <;> simp [h]
  refine ⟨_, rfl, ?_⟩
  simp only [startResult, devicesAnswered, hgo, Bool.false_eq_true, if_false]
  cases audioOk mask s
  · rfl
  · simp only [if_true, State.respondOk, responseWord_runBits]

/-! ## The ticker (44_orchestrator.md R305) -/

theorem tickEnabled_iff {s : State} : tickEnabled s = true ↔
    s.loops.runTick = true ∧ s.loops.nextTick.toNat ≤ s.time.toNat := by
  simp only [tickEnabled, Bool.and_eq_true, decide_eq_true_eq]

theorem tickStep_of_not_enabled {s : State} (h : tickEnabled s = false) : tickStep s = .next s := by
  simp only [tickStep, h, Bool.not_false, if_true]

theorem tickStep_of_stop {s : State} (h : tickEnabled s = true) (hstop : s.loops.stopTick = true) :
    tickStep s = .next (tickStop s) := by
  simp [tickStep, h, hstop]

theorem tickStep_of_due {s : State} {d : Descriptor} (h : tickEnabled s = true) (hstop : s.loops.stopTick = false)
    (hd : Renderable s d) : tickStep s = .next (advanceTick (updateWith d s.time s).2) := by
  have hop : updateOp s.time s = .ok (updateWith d s.time s) := by rw [updateOp, updateReady_of hd]
  simp [tickStep, h, hstop, hop]

/-- The grid's next point (44_orchestrator.md R305). -/
theorem later_tickUs (t : Time) : later t tickUs = t + 20000 := by
  apply BitVec.eq_of_toNat_eq
  simp [later, tickUs, BitVec.toNat_add]

/-- UPDATE leaves the loops, the port and RESP, so a tick is UPDATE with its response dropped. -/
theorem advanceTick_eq_update (d : Descriptor) (s : State) :
    advanceTick (updateWith d s.time s).2 = { afterUpdate d s.time s with
      loops := { s.loops with nextTick := s.loops.nextTick + 20000 }, port := s.port, resp := s.resp } := by
  have hframe := updateWith_frame d s.time s
  rw [advanceTick, later_tickUs, ← hframe.loops, ← hframe.port, ← hframe.resp]
  rfl

end Sys2Proof.Machine

namespace Sys2Proof.Proofs
open Sys2Proof.Machine

/-- Settles O58: the answer is `responseWord_runBits`; the refusal is `zeroBitsRefused_of_mask`. -/
theorem stop : Obligations.Stop := by
  refine ⟨fun mask s => ?_, zeroBitsRefused_of_mask (by decide) (by decide)⟩
  rw [← responseWord_runBits]
  rfl

/-- Settles O59: the three branches of the ticker's step; the tick itself is `advanceTick_eq_update`. -/
theorem tick : Obligations.Tick := by
  refine fun s => ⟨fun h => tickStep_of_not_enabled ?_, fun hrun hdue => ?_⟩
  · rw [Bool.eq_false_iff, Ne, tickEnabled_iff]
    rintro ⟨hrun, hdue⟩
    rcases h with h | h
    · exact Bool.noConfusion (h.symm.trans hrun)
    · omega
  · have henabled := tickEnabled_iff.2 ⟨hrun, hdue⟩
    refine ⟨tickStep_of_stop henabled, fun d hstop hd => ⟨_, exec_update_of s.time hd, ?_⟩⟩
    exact (tickStep_of_due henabled hstop hd).trans (congrArg _ (advanceTick_eq_update d s))

/-- Settles O57: a serial failure without a fallback is `startResult_fatal`; else the loops are started
(`startLoops_started`) from the state after the devices were asked, degraded or not. -/
theorem start : Obligations.Start := by
  refine ⟨?_, zeroBitsRefused_of_mask (by decide) (by decide)⟩
  rintro mask s _ _ _ _ rfl rfl rfl rfl
  have hasked := askDevices_asked mask s
  have hframe := (askDevices_frame mask s).1
  refine ⟨fun hserial hfallback => ?_, fun h => ?_⟩
  · refine ⟨startResult mask s, rfl, ?_⟩
    rw [startResult_fatal hserial hfallback]
    refine ⟨hasked.of_env rfl, ?_⟩
    rw [hframe]
    rfl
  · obtain ⟨t, ht, hresult⟩ := startResult_started h
    have hstarted := startLoops_started mask (audioOk mask s) (devicesAnswered mask s)
    rw [← ht, devicesAnswered_eq] at hstarted
    rw [startLoops_eq, devicesAnswered_eq] at ht
    refine ⟨startResult mask s, rfl, ?_⟩
    rw [hresult]
    refine ⟨hasked.of_env ?_, (hstarted _).of_asked, ?_, ?_, ?_⟩
    · rw [State.respond_env, ht]
    · rw [State.respond_tx, ht]
      rfl
    · rw [State.respond_log, ht]
      rfl
    · rw [State.respond_resp, State.respond_loops, ht]
      rfl

end Sys2Proof.Proofs
end

section
/-! PROOFS. The life cycle of the three loops over every step (44_orchestrator.md R307): what a command can do to their
flags, how each agent ends its own loop, and that no other move touches them. -/

namespace Sys2Proof.Machine

/-! ## One loop -/

/-- What one step does to the flags RUN and STOP of one loop: they stay, a command sets them, or the loop ends
(44_orchestrator.md R307). -/
inductive LoopMove (commanded ended : Prop) (run stop run' stop' : Bool) : Prop
  | kept (hrun : run' = run) (hstop : stop' = stop)
  | commanded (h : commanded) (hrun : run = true → run' = true) (hstop : stop' = true → run' = true)
  | ended (h : ended) (hrun : run' = false) (hstop : stop' = false)

/-- A command, the loop's own agent, or another move, which leaves both flags. -/
theorem LoopMove.of_move {commanded own ended : Prop} {run stop run' stop' : Bool}
    (hcommanded : commanded → (run = true → run' = true) ∧ (stop' = true → run' = true))
    (hown : own → (run' = run ∧ stop' = stop) ∨ (ended ∧ run' = false ∧ stop' = false))
    (hother : ¬commanded → ¬own → run' = run ∧ stop' = stop) : LoopMove commanded (own ∧ ended) run stop run' stop' := by
  by_cases hc : commanded
  · obtain ⟨hrun, hstop⟩ := hcommanded hc
    exact .commanded hc hrun hstop
  · by_cases ho : own
    · rcases hown ho with ⟨hrun, hstop⟩ | ⟨hended, hrun, hstop⟩
      · exact .kept hrun hstop
      · exact .ended ⟨ho, hended⟩ hrun hstop
    · obtain ⟨hrun, hstop⟩ := hother hc ho
      exact .kept hrun hstop

section LoopMoves
variable {commanded ended : Prop} {run stop run' stop' : Bool} (h : LoopMove commanded ended run stop run' stop')
include h

/-- STOP without RUN never comes to be. -/
theorem LoopMove.stop_runs (hok : stop = true → run = true) : stop' = true → run' = true := by
  intro hstop'
  cases h with
  | kept hrun hstop => exact hrun.trans (hok (hstop.symm.trans hstop'))
  | commanded _ _ hstop => exact hstop hstop'
  | ended _ _ hstop => exact Bool.noConfusion (hstop.symm.trans hstop')

theorem LoopMove.started (hbefore : run = false) (hafter : run' = true) : commanded := by
  cases h with
  | kept hrun _ => exact Bool.noConfusion (hbefore.symm.trans (hrun.symm.trans hafter))
  | commanded hcommanded _ _ => exact hcommanded
  | ended _ hrun _ => exact Bool.noConfusion (hrun.symm.trans hafter)

theorem LoopMove.stopped (hbefore : run = true) (hafter : run' = false) : ended ∧ stop' = false := by
  cases h with
  | kept hrun _ => exact Bool.noConfusion (hafter.symm.trans (hrun.trans hbefore))
  | commanded _ hrun _ => exact Bool.noConfusion (hafter.symm.trans (hrun hbefore))
  | ended hended _ hstop => exact ⟨hended, hstop⟩

theorem LoopMove.stop_requested (hbefore : stop = false) (hafter : stop' = true) : commanded := by
  cases h with
  | kept _ hstop => exact Bool.noConfusion (hbefore.symm.trans (hstop.symm.trans hafter))
  | commanded hcommanded _ _ => exact hcommanded
  | ended _ _ hstop => exact Bool.noConfusion (hstop.symm.trans hafter)

end LoopMoves

/-! ## The commands -/

/-- What a command does to the loops: it ends none, and leaves none with STOP and without RUN. -/
structure LoopsCommanded (l k : Loops) : Prop where
  capture : (l.runCapture = true → k.runCapture = true) ∧ (k.stopCapture = true → k.runCapture = true)
  tick : (l.runTick = true → k.runTick = true) ∧ (k.stopTick = true → k.runTick = true)
  tx : (l.runTx = true → k.runTx = true) ∧ (k.stopTx = true → k.runTx = true)

theorem LoopsCommanded.of_run_kept {l k : Loops} (hok : flagsOk k = true) (hcapture : k.runCapture = l.runCapture)
    (htick : k.runTick = l.runTick) (htx : k.runTx = l.runTx) : LoopsCommanded l k := by
  obtain ⟨okCapture, okTick, okTx⟩ := flagsOk_iff.1 hok
  exact ⟨⟨hcapture.trans, okCapture⟩, ⟨htick.trans, okTick⟩, ⟨htx.trans, okTx⟩⟩

theorem LoopsCommanded.refl {l : Loops} (hok : flagsOk l = true) : LoopsCommanded l l := .of_run_kept hok rfl rfl rfl

/-- A loop that START starts, or that ran already, has its STOP flag cleared (44_orchestrator.md R303). -/
theorem startedLoops_commanded {l : Loops} (hok : flagsOk l = true) (mask : BitVec 3) (aOk : Bool) (now : Time) :
    LoopsCommanded l (startedLoops mask aOk now l) := by
  obtain ⟨hcapture, htick, htx⟩ := flagsOk_iff.1 hok
  have keeps : ∀ {run other : Bool}, run = true → (run || other) = true := by decide
  have clears : ∀ {run stop other clear : Bool}, (stop = true → run = true) →
      ((stop && !clear) = true → (run || other) = true) := by decide
  exact ⟨⟨keeps, clears hcapture⟩, ⟨keeps, clears htick⟩, ⟨keeps, clears htx⟩⟩

theorem requestStop_commanded {l : Loops} (hok : flagsOk l = true) (mask : BitVec 3) :
    LoopsCommanded l (requestStop mask l) := .of_run_kept (requestStop_flagsOk hok mask) rfl rfl rfl

/-- START starts no loop, or those it can (44_orchestrator.md R303, R304). -/
theorem startResult_loops (mask : BitVec 3) (s : State) : (startResult mask s).loops = s.loops ∨
    (startResult mask s).loops = startedLoops mask (audioOk mask s) s.time s.loops := by
  have hasked := (askDevices_frame mask s).1
  rcases startResult_cases mask s with ⟨-, -, e⟩ | ⟨u, v, hu, hv, he⟩
  · exact .inl (by rw [e, State.refuse_loops, hasked])
  · have hbefore : u.loops = s.loops ∧ u.time = s.time := by
      rcases hu with ⟨-, rfl⟩ | ⟨-, -, rfl⟩ <;> (rw [hasked]; exact ⟨rfl, rfl⟩)
    obtain ⟨hloops, htime⟩ := hbefore
    have hstarted : v.loops = startedLoops mask (audioOk mask s) s.time s.loops := by
      rw [hv, startLoops_eq, ← hloops, ← htime]
    rcases he with ⟨-, e⟩ | ⟨-, e⟩ <;> (rw [e]; exact .inr hstarted)

/-- START and STOP alone write the loops, and as R303 and R306 say. -/
theorem exec_commanded {i : Instr} {s t : State} (hok : flagsOk s.loops = true) (h : exec i s = .next t) :
    LoopsCommanded s.loops t.loops := by
  by_cases hi : ∀ mask, i ≠ .start mask ∧ i ≠ .stop mask
  · have hsame : t.loops = s.loops := (Proofs.commandsIgnoreTransmit i s t s.tx s.loops hi h).2.1
    rw [hsame]
    exact .refl hok
  · cases i with
    | start mask =>
      cases h
      rcases startResult_loops mask s with e | e <;> rw [e]
      · exact .refl hok
      · exact startedLoops_commanded hok mask _ _
    | stop mask =>
      cases h
      exact requestStop_commanded hok mask
    | _ => exact absurd (fun _ => ⟨Instr.noConfusion, Instr.noConfusion⟩) hi

theorem hostStep_commanded {s t : State} (hok : flagsOk s.loops = true) (h : hostStep s = .next t) :
    LoopsCommanded s.loops t.loops := by
  rcases hostStep_next h with rfl | ⟨info, rfl⟩ | ⟨i, -, -, hi⟩
  · exact .refl hok
  · exact .refl hok
  · exact exec_commanded hok hi

/-! ## How each loop ends -/

/-- The capture loop ends with no event pending, because it was asked to or the failures reached their limit
(40_beat_detector.md R157, R160). -/
theorem captureStep_loops_cases {s t : State} (h : captureStep s = .next t) : t.loops = s.loops ∨
    (s.mbox.valid = false ∧ (s.loops.stopCapture = true ∨ s.cfg.audioFailLimit ≤ t.det.failCnt.toNat) ∧
      t.loops = { s.loops with runCapture := false, stopCapture := false }) := by
  rcases captureStep_next h with ⟨-, p, hp, rfl⟩ | ⟨-, rfl⟩ | ⟨hv, -, hstop, rfl⟩ | ⟨hv, -, -, it, -, rfl⟩
  · exact .inl (onBeat_frame hp).1.loops
  · exact .inl rfl
  · exact .inr ⟨hv, .inl hstop, rfl⟩
  · cases it with
    | frame tCap frame =>
      refine .inl ?_
      rw [takeItem, pushFrame_frame]
      rfl
    | fail =>
      rw [takeItem]
      rcases readFail_cases (popAudio s) with ⟨hlimit, e⟩ | ⟨-, e⟩ <;> rw [e]
      · exact .inr ⟨hv, .inr hlimit, rfl⟩
      · exact .inl rfl

/-- The ticker ends because it was asked to; else a tick moves the next one only (44_orchestrator.md R305). -/
theorem tickStep_loops_cases {s t : State} (h : tickStep s = .next t) :
    t.loops = { s.loops with nextTick := t.loops.nextTick } ∨
      (s.loops.stopTick = true ∧ t.loops = { s.loops with runTick := false, stopTick := false }) := by
  rcases tickStep_next h with ⟨-, rfl⟩ | ⟨-, hstop, rfl⟩ | ⟨-, -, d, -, rfl⟩
  · exact .inl rfl
  · exact .inr ⟨hstop, rfl⟩
  · rw [advanceTick_loops, (updateWith_frame d s.time s).loops]
    exact .inl rfl

/-- The transmit loop ends at TOP because it was asked to, and is in phase IDLE then (43_transport.md R286). -/
theorem txStep_loops_cases {s t : State} (h : txStep s = .next t) : t.loops = s.loops ∨
    (s.loops.stopTx = true ∧ t.tx.phase = .idle ∧ t.loops = { s.loops with runTx := false, stopTx := false }) := by
  rcases txStep_next h with ⟨-, rfl⟩ | ⟨-, ⟨-, rfl⟩ | ⟨-, rfl⟩ | ⟨-, rfl⟩ | ⟨-, hd⟩⟩
  · exact .inl rfl
  · unfold txTop
    cases hstop : s.loops.stopTx
    case true => exact .inr ⟨rfl, rfl, rfl⟩
    case false => cases s.tx.virtualSink <;> exact .inl rfl
  · exact .inl rfl
  · unfold txMab
    split <;> exact .inl rfl
  · obtain ⟨d, -, ⟨-, rfl⟩ | ⟨-, -, rfl⟩ | ⟨-, -, rfl⟩⟩ := txData_next hd
    · exact .inl rfl
    · exact .inl rfl
    · rw [txEnd_eq]
      exact .inl rfl

/-! ## Every step -/

section Steps
variable {s t : State} (hok : flagsOk s.loops = true) (h : step s = .next t)
include hok h

theorem step_commanded (hhost : s.nextMove = .host) : LoopsCommanded s.loops t.loops := by
  have hstep : hostStep s.takeMove = .next t := by simpa only [step, hhost, perform] using h
  exact hostStep_commanded (s := s.takeMove) hok hstep

variable (hm : s.nextMove ≠ .reset)
include hm

theorem step_loopMove_capture : LoopMove (s.nextMove = .host)
    (s.nextMove = .capture ∧ s.mbox.valid = false ∧
      (s.loops.stopCapture = true ∨ s.cfg.audioFailLimit ≤ t.det.failCnt.toNat))
    s.loops.runCapture s.loops.stopCapture t.loops.runCapture t.loops.stopCapture := by
  refine .of_move (fun hhost => (step_commanded hok h hhost).capture) (fun hown => ?_) (step_owned h hm).captureFlags
  have hstep : captureStep s.takeMove = .next t := by simpa only [step, hown, perform] using h
  rcases captureStep_loops_cases hstep with e | ⟨hv, hwhy, e⟩ <;> rw [e]
  · exact .inl ⟨rfl, rfl⟩
  · exact .inr ⟨⟨hv, hwhy⟩, rfl, rfl⟩

theorem step_loopMove_tick : LoopMove (s.nextMove = .host) (s.nextMove = .ticker ∧ s.loops.stopTick = true)
    s.loops.runTick s.loops.stopTick t.loops.runTick t.loops.stopTick := by
  refine .of_move (fun hhost => (step_commanded hok h hhost).tick) (fun hown => ?_) (step_owned h hm).tickFlags
  have hstep : tickStep s.takeMove = .next t := by simpa only [step, hown, perform] using h
  rcases tickStep_loops_cases hstep with e | ⟨hwhy, e⟩ <;> rw [e]
  · exact .inl ⟨rfl, rfl⟩
  · exact .inr ⟨hwhy, rfl, rfl⟩

theorem step_loopMove_tx : LoopMove (s.nextMove = .host)
    (s.nextMove = .tx ∧ s.loops.stopTx = true ∧ t.tx.phase = .idle)
    s.loops.runTx s.loops.stopTx t.loops.runTx t.loops.stopTx := by
  refine .of_move (fun hhost => (step_commanded hok h hhost).tx) (fun hown => ?_) (step_owned h hm).txFlags
  have hstep : txStep s.takeMove = .next t := by simpa only [step, hown, perform] using h
  rcases txStep_loops_cases hstep with e | ⟨hwhy, hphase, e⟩ <;> rw [e]
  · exact .inl ⟨rfl, rfl⟩
  · exact .inr ⟨⟨hwhy, hphase⟩, rfl, rfl⟩

end Steps

end Sys2Proof.Machine

namespace Sys2Proof.Proofs
open Sys2Proof.Machine

/-- Settles O60: each loop's flags make one `LoopMove`, which is started and asked to stop by commands only and ends as
its agent's step says. -/
theorem loopLifeCycle : Obligations.LoopLifeCycle := by
  intro s t hok h hm
  have hcapture := step_loopMove_capture hok h hm
  have htick := step_loopMove_tick hok h hm
  have htx := step_loopMove_tx hok h hm
  obtain ⟨okCapture, okTick, okTx⟩ := flagsOk_iff.1 hok
  refine ⟨flagsOk_iff.2 ⟨hcapture.stop_runs okCapture, htick.stop_runs okTick, htx.stop_runs okTx⟩,
    hcapture.started, htick.started, htx.started, fun hrun hrun' => ?_, fun hrun hrun' => ?_, fun hrun hrun' => ?_,
    hcapture.stop_requested, htick.stop_requested, htx.stop_requested⟩
  · obtain ⟨⟨hmove, hv, hwhy⟩, hstop⟩ := hcapture.stopped hrun hrun'
    exact ⟨hmove, hv, hstop, hwhy⟩
  · obtain ⟨⟨hmove, hwhy⟩, hstop⟩ := htick.stopped hrun hrun'
    exact ⟨hmove, hwhy, hstop⟩
  · obtain ⟨⟨hmove, hwhy, hphase⟩, hstop⟩ := htx.stopped hrun hrun'
    exact ⟨hmove, hwhy, hstop, hphase⟩

end Sys2Proof.Proofs
end

section
/-! PROOFS. No step faults from a legal state (60_exceptions.md R336, 10_state.md R36): each of the faults of log 8 asks
for a state that one field of `Legal` excludes. -/

namespace Sys2Proof.Machine
open Sys2Proof.Laws

theorem Faultless.of_next (t : State) : Faultless (.next t) := nofun

theorem Faultless.of_refused (r : Refusal) : Faultless (.refused r) := nofun

/-! ## The active descriptor -/

/-- A legal state has a descriptor and all that UPDATE rests on (10_state.md R29, R36, R37, 42_engine_render.md
R250). -/
theorem Legal.renderable {s : State} (h : Legal s) : ∃ d, Renderable s d := by
  have hentry := List.getElem?_eq_getElem h.preset_lt
  have hwf := List.all_eq_true.1 h.cfg_wf.table_entries _ (List.getElem_mem h.preset_lt)
  exact ⟨_, ⟨⟨hentry, hwf, h.cfg_wf.palette⟩, h.bpm_pos, h.ranges_fit, h.ch_wf⟩⟩

/-! ## The commands -/

/-- A map is checked and then written or refused (43_transport.md R261). -/
theorem exec_setChannels_faultless (pairs : List Pair) (s : State) : Faultless (exec (.setChannels pairs) s) := by
  simp only [exec, execSetChannels]
  split
  · exact .of_next _
  · exact .of_next _

/-- BEAT, TRIGGER and UPDATE alone can fault, and not where they find their descriptor. -/
theorem exec_faultless {s : State} {d : Descriptor} (hd : Renderable s d) (i : Instr) : Faultless (exec i s) := by
  cases i with
  | setChannel idx val =>
    rw [exec_setChannel_eq]
    exact exec_setChannels_faultless _ s
  | setChannels pairs => exact exec_setChannels_faultless pairs s
  | getChannel idx =>
    simp only [exec, execGetChannel]
    split <;> exact .of_next _
  | blackout => exact .of_next _
  | setAll val =>
    simp only [exec, execSetAll]
    split <;> exact .of_next _
  | setPreset id =>
    simp only [exec, execSetPreset]
    split <;> exact .of_next _
  | setAudioReactive en => exact .of_next _
  | setAddress fix addr =>
    simp only [exec, execSetAddress]
    split
    · exact .of_next _
    · split <;> exact .of_next _
  | getStatus => exact .of_next _
  | setBpm bpm =>
    simp only [exec, execSetBpm]
    split <;> exact .of_next _
  | beat ts =>
    obtain ⟨p, hp⟩ := onBeat_of hd.toActiveIs ts
    rw [exec_beat_of hp]
    exact .of_next _
  | trigger ts =>
    have hexec : exec (.trigger ts) s = answerProcessed (.ok (tryBeat d ts s)) :=
      congrArg answerProcessed (trigger_of hd.toActiveIs ts)
    rw [hexec]
    exact .of_next _
  | update now =>
    rw [exec_update_of now hd]
    exact .of_next _
  | getVolume => exact .of_next _
  | start mask => exact .of_next _
  | stop mask => exact .of_next _

/-! ## The words in C_BUF -/

/-- Of the operands only a map's pair words can be illegal (30_encoding.md R120). -/
theorem decodeOperands_error {o : Opcode} {h : Word} {ops : List Word} {e : DecodeError}
    (he : decodeOperands o h ops = .error e) : ∃ info, e = .nonzeroPairField info := by
  cases o with
  | setChannels =>
    simp only [decodeOperands, decodePairs] at he
    split at he
    next => cases he
    next hpairs =>
      split at hpairs
      · cases hpairs
        cases he
        exact ⟨_, rfl⟩
      · cases hpairs
  | _ => cases he

/-- A header with as many operand words as it asks for can only be refused for an illegal word: the errors that say
words are missing or left over do not arise (10_state.md R47). -/
theorem decode_error_of_fits {h : Word} {ops : List Word} {e : DecodeError} (hlen : ops.length = operandWords h)
    (he : decode (h :: ops) = .error e) :
    ∃ info, e = .unassignedOpcode info ∨ e = .nonzeroZeroField info ∨ e = .nonzeroPairField info := by
  cases hheader : decodeHeader h with
  | error e' =>
    obtain rfl : e' = e := Except.error.inj ((decode_of_header_error ops hheader).symm.trans he)
    have hno : ∀ o, h &&& headerMask o ≠ headerMatch o := fun o hs => by
      cases hheader.symm.trans (decodeHeader_eq_ok_iff.2 hs)
    rcases decodeHeader_illegal hno with k | k <;> cases hheader.symm.trans k
    · exact ⟨_, .inl rfl⟩
    · exact ⟨_, .inr (.inl rfl)⟩
  | ok o =>
    have hcount : ops.length = operandCount o h := hlen.trans (operandWords_of_ok hheader)
    simp only [decode, hheader, hcount, Nat.lt_irrefl, if_false] at he
    obtain ⟨info, rfl⟩ := decodeOperands_error he
    exact ⟨info, .inr (.inr rfl)⟩

/-- The port hands over whole commands only, so HOST's step executes them or refuses an illegal word. -/
theorem hostStep_faultless {s : State} (h : Legal s) : Faultless (hostStep s) := by
  obtain ⟨d, hd⟩ := h.renderable
  by_cases hready : s.port.cBuf ≠ [] ∧ s.port.cNeed = 0
  · obtain ⟨hbuf, hneed⟩ := hready
    cases hdecode : decode s.port.cBuf with
    | ok i =>
      rw [hostStep_of_ok hbuf hneed hdecode]
      exact exec_faultless hd i
    | error e =>
      obtain ⟨header, ops, hcons⟩ := List.exists_cons_of_ne_nil hbuf
      have hlen : ops.length = operandWords header := by
        have hfits := h.port_fits
        simpa [portFits, hcons, hneed] using hfits
      rw [hcons] at hdecode
      rw [hostStep_of_error hbuf hneed (hcons ▸ hdecode)]
      obtain ⟨info, rfl | rfl | rfl⟩ := decode_error_of_fits hlen hdecode
      all_goals exact .of_next _
  · have hwaits : s.commandReady = false := by
      rw [Bool.eq_false_iff]
      simpa [State.commandReady] using hready
    simp only [hostStep, hwaits, Bool.not_false, if_true]
    exact .of_next s

/-! ## The agents' own steps -/

theorem captureStep_faultless {s : State} (h : Legal s) : Faultless (captureStep s) := by
  obtain ⟨d, hd⟩ := h.renderable
  cases hv : s.mbox.valid
  case true =>
    obtain ⟨p, hp⟩ := onBeat_of hd.toActiveIs s.mbox.ts
    rw [captureStep_of_event hv, deliver_of hp]
    exact .of_next _
  case false =>
    cases hr : s.loops.runCapture
    case false =>
      rw [captureStep_of_stopped hv hr]
      exact .of_next s
    case true =>
      cases hs : s.loops.stopCapture
      case true =>
        rw [captureStep_of_stop hv hr hs]
        exact .of_next _
      case false =>
        simp only [captureStep, hv, hr, hs, Bool.not_true, Bool.false_eq_true, if_false]
        split <;> exact .of_next _

/-- UPDATE issued by the ticker cannot raise (60_exceptions.md R336). -/
theorem tickStep_faultless {s : State} (h : Legal s) : Faultless (tickStep s) := by
  obtain ⟨d, hd⟩ := h.renderable
  cases he : tickEnabled s
  case false =>
    rw [tickStep_of_not_enabled he]
    exact .of_next s
  case true =>
    cases hs : s.loops.stopTick
    case true =>
      rw [tickStep_of_stop he hs]
      exact .of_next _
    case false =>
      rw [tickStep_of_due he hs hd]
      exact .of_next _

/-- T_SLOT is an index of T_SNAP (10_state.md R39, R40). -/
theorem txData_faultless {s : State} (h : Legal s) : Faultless (txData s) := by
  have hlen := h.snap_len
  have hslot := h.slot_le
  have hbyte := List.getElem?_eq_getElem (show s.tx.slot.toNat < s.tx.snap.length by omega)
  simp only [txData, hbyte]
  split
  · exact .of_next _
  · split <;> exact .of_next _

theorem txStep_faultless {s : State} (h : Legal s) : Faultless (txStep s) := by
  unfold txStep
  split
  · exact .of_next s
  · cases s.tx.phase with
    | data => exact txData_faultless h
    | idle | sleep | pause | breakLow | mab => exact .of_next _

/-- Of the environment's moves only `time` can stop the model, and that is no fault (10_state.md R22). -/
theorem advanceTime_faultless (d : Nat) (s : State) : Faultless (advanceTime d s) := by
  rcases advanceTime_cases d s with ⟨-, e⟩ | ⟨-, -, e⟩ | ⟨-, -, e, -⟩ <;> rw [e]
  · exact .of_next _
  · exact .of_refused _
  · exact .of_next _

theorem perform_faultless {s : State} (h : Legal s) (m : Move) : Faultless (perform m s) := by
  cases m with
  | time d => exact advanceTime_faultless d s
  | host => exact hostStep_faultless h
  | capture => exact captureStep_faultless h
  | ticker => exact tickStep_faultless h
  | tx => exact txStep_faultless h
  | reset => exact .of_next _
  | word w => exact .of_next _
  | sample x => exact .of_next _
  | audioItem it => exact .of_next _
  | audioLost k => exact .of_next _
  | lineNoise b => exact .of_next _

end Sys2Proof.Machine

namespace Sys2Proof.Proofs
open Sys2Proof.Machine

/-- Settles O17: a step is a move at a state that is still legal, and `perform_faultless` holds for each move. -/
theorem legalNeverFaults : Obligations.LegalNeverFaults := fun s h => perform_faultless h.takeMove s.nextMove

end Sys2Proof.Proofs
end

section
/-! PROOFS. LOG (60_exceptions.md R320, R325, R326, 30_encoding.md R118): which record each agent's step can add, and
the words the log port shows for it. -/

namespace Sys2Proof.Machine

/-- The capture agent's step logs an audio failure with the counter's new value, and ends the loop with the one that
reaches the limit (40_beat_detector.md R159). -/
theorem captureStep_log_cases {s t : State} (h : captureStep s = .next t) : t.log = s.log ∨
    (t.log = s.log ++ [⟨.transientIOError, .capture, t.det.failCnt.zeroExtend 16, s.time⟩] ∧
      t.det.failCnt.toNat < s.cfg.audioFailLimit) ∨
    (t.log = s.log ++ [⟨.deviceError, .capture, t.det.failCnt.zeroExtend 16, s.time⟩] ∧
      s.cfg.audioFailLimit ≤ t.det.failCnt.toNat ∧ t.loops.runCapture = false) := by
  rcases captureStep_next h with ⟨-, p, hp, rfl⟩ | ⟨-, rfl⟩ | ⟨-, -, -, rfl⟩ | ⟨-, -, -, it, -, rfl⟩
  · exact .inl (onBeat_frame hp).1.log
  · exact .inl rfl
  · exact .inl rfl
  · cases it with
    | frame tCap frame =>
      refine .inl ?_
      rw [takeItem, pushFrame_frame]
      rfl
    | fail =>
      rw [takeItem]
      rcases readFail_cases (popAudio s) with ⟨hlimit, e⟩ | ⟨hbelow, e⟩ <;> rw [e]
      · exact .inr (.inr ⟨rfl, hlimit, rfl⟩)
      · exact .inr (.inl ⟨rfl, hbelow⟩)

/-- The transmit loop's step logs a failed write in MAB and an overrun at END (43_transport.md R281, R282). -/
theorem txStep_log_cases {s t : State} (h : txStep s = .next t) : t.log = s.log ∨
    (t.log = s.log ++ [⟨.transientIOError, .tx, 0, s.time⟩] ∧ s.tx.phase = .mab ∧ s.sinkOk = false) ∨
    (t.log = s.log ++
        [⟨.overrunWarning, .tx, BitVec.ofNat 16 (min 65535 (elapsedUs s - periodUs s.cfg)), s.time⟩] ∧
      periodUs s.cfg < elapsedUs s) := by
  rcases txStep_next h with ⟨-, rfl⟩ | ⟨-, ⟨-, rfl⟩ | ⟨-, rfl⟩ | ⟨hmab, rfl⟩ | ⟨-, hd⟩⟩
  · exact .inl rfl
  · unfold txTop
    split
    · exact .inl rfl
    · split <;> exact .inl rfl
  · exact .inl rfl
  · unfold txMab
    cases hok : s.sinkOk
    · exact .inr (.inl ⟨rfl, hmab, rfl⟩)
    · exact .inl rfl
  · obtain ⟨d, -, ⟨-, rfl⟩ | ⟨-, -, rfl⟩ | ⟨-, -, rfl⟩⟩ := txData_next hd
    · exact .inl rfl
    · exact .inl rfl
    · rw [txEnd_eq]
      rcases Nat.lt_or_ge (periodUs s.cfg) (elapsedUs s) with hover | hfits
      · rw [txPace_overrun hover]
        exact .inr (.inr ⟨rfl, hover⟩)
      · rw [txPace_in_time hfits]
        exact .inl rfl

/-- HOST's step logs START's fall back to the virtual sink and nothing else: a refused command is not logged
(60_exceptions.md R325). -/
theorem hostStep_log_cases {s t : State} (h : hostStep s = .next t) : t.log = s.log ∨
    (t.log = s.log ++ [⟨.deviceError, .tx, 1, s.time⟩] ∧ s.tx.virtualSink = false ∧ t.tx.virtualSink = true) := by
  rcases hostStep_next h with rfl | ⟨info, rfl⟩ | ⟨i, -, -, hi⟩
  · exact .inl rfl
  · exact .inl rfl
  · exact (exec_frame hi).log

/-- The counter of eight bits keeps its value in INFO (30_encoding.md R118). -/
theorem failCnt_info_toNat (k : BitVec 8) : (k.zeroExtend 16).toNat = k.toNat :=
  BitVec.toNat_setWidth_of_le (by decide)

/-- An overrun is cut at the greatest INFO (43_transport.md R281). -/
theorem overrun_info_toNat (n : Nat) : (BitVec.ofNat 16 (min 65535 n)).toNat = min 65535 n := by
  rw [BitVec.toNat_ofNat]
  omega

/-- The first word of a log record, field by field (30_encoding.md R118). -/
theorem logWord_fields (c : BitVec 8) (a : BitVec 8) (info : BitVec 16) :
    (c ++ a ++ info).extractLsb' 0 16 = info ∧ (c ++ a ++ info).extractLsb' 16 8 = a ∧
      (c ++ a ++ info).extractLsb' 24 8 = c := by
  refine ⟨BitVec.extractLsb'_append_eq_right, Laws.extract_middle c a info, ?_⟩
  exact Laws.opField_three c a info rfl

end Sys2Proof.Machine

namespace Sys2Proof.Proofs
open Sys2Proof.Machine

/-- Settles O20: the words by `logWord_fields`; the agents that log are HOST, CAPTURE and TX (`step_owned`), and what
each one can log are its `_log_cases`. -/
theorem logRecordsTheFiveEvents : Obligations.LogRecordsTheFiveEvents := by
  refine ⟨fun r => ?_, fun s t h hreset => ?_⟩
  · obtain ⟨hinfo, hagent, hcode⟩ := logWord_fields (codeByte r.code) (agentByte r.agent) r.info
    refine ⟨codeByte r.code ++ agentByte r.agent ++ r.info, rfl, hinfo, ?_, ?_⟩
    · rw [hagent]
      cases r.agent <;> decide
    · rw [hcode]
      cases r.code <;> decide
  · by_cases hcapture : s.nextMove = .capture
    · have hstep : captureStep s.takeMove = .next t := by simpa only [step, hcapture, perform] using h
      rcases captureStep_log_cases hstep with e | ⟨e, hbelow⟩ | ⟨e, hlimit, hended⟩
      · exact .inl e
      · exact .inr ⟨_, e, rfl, .inl ⟨hcapture, rfl, rfl, failCnt_info_toNat _, hbelow⟩⟩
      · exact .inr ⟨_, e, rfl, .inr (.inl ⟨hcapture, rfl, rfl, failCnt_info_toNat _, hlimit, hended⟩)⟩
    by_cases htx : s.nextMove = .tx
    · have hstep : txStep s.takeMove = .next t := by simpa only [step, htx, perform] using h
      rcases txStep_log_cases hstep with e | ⟨e, hmab, hfail⟩ | ⟨e, hover⟩
      · exact .inl e
      · exact .inr ⟨_, e, rfl, .inr (.inr (.inl ⟨htx, rfl, rfl, rfl, hmab, hfail⟩))⟩
      · exact .inr ⟨_, e, rfl, .inr (.inr (.inr (.inl ⟨htx, rfl, rfl, hover, overrun_info_toNat _⟩)))⟩
    by_cases hhost : s.nextMove = .host
    · have hstep : hostStep s.takeMove = .next t := by simpa only [step, hhost, perform] using h
      rcases hostStep_log_cases hstep with e | ⟨e, hreal, hvirtual⟩
      · exact .inl e
      · exact .inr ⟨_, e, rfl, .inr (.inr (.inr (.inr ⟨hhost, rfl, rfl, rfl, hreal, hvirtual⟩)))⟩
    · exact .inl ((step_owned h hreset).log hhost hcapture htx)

end Sys2Proof.Proofs
end

section
/-! PROOFS. What an error leaves untouched (60_exceptions.md R323, R334): a command answers OK or, all checks coming
before all writes, refuses the state it found. -/

namespace Sys2Proof.Machine

/-- CODE stands in the top byte of a response word (30_encoding.md R112). -/
theorem responseWord_code (c : ResultCode) (data : BitVec 24) : (responseWord c data).extractLsb' 24 8 = codeByte c :=
  BitVec.extractLsb'_append_eq_left

/-- `t` is `s` with an error answered, or its first new response word has CODE OK. -/
def RefusedOrOk (s t : State) : Prop :=
  (∃ c info, t = s.refuse c info) ∨ ∃ w rest, t.resp = s.resp ++ w :: rest ∧ w.extractLsb' 24 8 = 0

theorem RefusedOrOk.of_refuse (s : State) (c : ResultCode) (info : BitVec 24) : RefusedOrOk s (s.refuse c info) :=
  .inl ⟨c, info, rfl⟩

/-- A command that changed registers, none of them RESP, and answers OK. -/
theorem RefusedOrOk.of_respondOk {s u : State} {data : BitVec 24} (h : u.resp = s.resp) :
    RefusedOrOk s (u.respondOk data) :=
  .inr ⟨_, [], by rw [State.respondOk_resp, h], responseWord_code .ok data⟩

/-- If the one new response word is an error, nothing but the port and RESP changed. -/
theorem RefusedOrOk.answeredOnly {s t : State} {w : Word} (h : RefusedOrOk s t) (hresp : t.resp = s.resp ++ [w])
    (hcode : w.extractLsb' 24 8 ≠ 0) : AnsweredOnly s t [w] := by
  rcases h with ⟨c, info, rfl⟩ | ⟨v, rest, hok, hzero⟩
  · rw [← List.append_cancel_left hresp]
    rfl
  · obtain ⟨rfl, -⟩ := List.cons.inj (List.append_cancel_left (hok.symm.trans hresp))
    exact absurd hzero hcode

theorem exec_setChannels_refusedOrOk {pairs : List Pair} {s t : State} (h : exec (.setChannels pairs) s = .next t) :
    RefusedOrOk s t := by
  simp only [exec, execSetChannels] at h
  split at h <;> cases h
  · exact .of_refuse s _ _
  · exact .of_respondOk rfl

/-- Every command but START validates before it writes (60_exceptions.md R323). -/
theorem exec_refusedOrOk {i : Instr} {s t : State} (hi : ∀ mask, i ≠ .start mask) (h : exec i s = .next t) :
    RefusedOrOk s t := by
  cases i with
  | setChannel idx val =>
    rw [exec_setChannel_eq] at h
    exact exec_setChannels_refusedOrOk h
  | setChannels pairs => exact exec_setChannels_refusedOrOk h
  | getChannel idx =>
    simp only [exec, execGetChannel] at h
    split at h <;> cases h
    · exact .of_refuse s _ _
    · exact .of_respondOk rfl
  | blackout => cases h; exact .of_respondOk rfl
  | setAll val =>
    simp only [exec, execSetAll] at h
    split at h <;> cases h
    · exact .of_refuse s _ _
    · exact .of_respondOk rfl
  | setPreset id =>
    simp only [exec, execSetPreset] at h
    split at h <;> cases h
    · exact .of_refuse s _ _
    · exact .of_respondOk rfl
  | setAudioReactive en => cases h; exact .of_respondOk rfl
  | setAddress fix addr =>
    simp only [exec, execSetAddress] at h
    split at h
    · cases h; exact .of_refuse s _ _
    · split at h <;> cases h
      · exact .of_respondOk rfl
      · exact .of_refuse s _ _
  | getStatus => cases h; exact .inr ⟨_, _, rfl, responseWord_code .ok _⟩
  | setBpm bpm =>
    simp only [exec, execSetBpm] at h
    split at h <;> cases h
    · exact .of_refuse s _ _
    · exact .of_respondOk rfl
  | beat ts =>
    obtain ⟨p, hp, rfl⟩ := answerProcessed_next h
    exact .of_respondOk (onBeat_frame hp).1.resp
  | trigger ts =>
    obtain ⟨p, hp, rfl⟩ := answerProcessed_next h
    exact .of_respondOk (trigger_frame hp).1.resp
  | update now =>
    obtain ⟨p, hp, rfl⟩ := answerProcessed_next h
    exact .of_respondOk (updateOp_frame hp).resp
  | getVolume => cases h; exact .of_respondOk rfl
  | start mask => exact absurd rfl (hi mask)
  | stop mask => cases h; exact .of_respondOk rfl

/-- DATA bit 2 of START's answer with an error says that the serial device failed without a fallback: the devices were
asked and no loop was started (44_orchestrator.md R304 (b)). -/
theorem startResult_fatal_answered {mask : BitVec 3} {s : State} {w : Word}
    (hresp : (startResult mask s).resp = s.resp ++ [w]) (hcode : w.extractLsb' 24 8 ≠ 0)
    (hfatal : w.getLsbD 2 = true) :
    startResult mask s =
      { s with env := (startResult mask s).env, port := readyPort, resp := s.resp ++ [w] } := by
  by_cases hgo : serialOk mask s = true ∨ s.cfg.fallbackEn = true
  · obtain ⟨t, ht, e⟩ := startResult_started hgo
    have hkept : t.resp = s.resp := by
      rw [ht, startLoops_eq, devicesAnswered_eq]
    rw [e, State.respond_resp, hkept] at hresp
    obtain rfl := List.singleton_inj.1 (List.append_cancel_left hresp)
    cases haudio : audioOk mask s <;> rw [haudio] at hcode hfatal
    · have haudioFailed : (0x03000001 : Word).getLsbD 2 = true := hfatal
      exact absurd haudioFailed (by decide)
    · refine absurd ?_ hcode
      rw [if_pos rfl, ← responseWord_runBits]
      exact responseWord_code .ok _
  · obtain ⟨hserial, hfallback⟩ := not_or.1 hgo
    have e := startResult_fatal (Bool.not_eq_true _ ▸ hserial) (Bool.not_eq_true _ ▸ hfallback)
    rw [← hresp, e, (askDevices_frame mask s).1]
    rfl

end Sys2Proof.Machine

namespace Sys2Proof.Proofs
open Sys2Proof.Machine

/-- Settles O12: `exec_refusedOrOk` for every command but START, `startResult_fatal_answered` for START. -/
theorem errorsLeaveState : Obligations.ErrorsLeaveState := by
  intro i s t w h hresp hcode
  refine ⟨fun hi => (exec_refusedOrOk hi h).answeredOnly hresp hcode, ?_⟩
  rintro mask rfl hfatal
  cases h
  exact startResult_fatal_answered hresp hcode hfatal

end Sys2Proof.Proofs
end

section
/-! PROOFS. The reset input, and a command port that waits for operand words (70_reset_and_hazards.md R360, R375). -/

namespace Sys2Proof.Machine

/-- The reset input is always answered: what was going on, the move taken apart, leaves no trace but CFG and the
environment (70_reset_and_hazards.md R360). -/
theorem step_of_reset {s : State} (hreset : s.nextMove = .reset) :
    step s = .next (resetWith s.cfg s.takeMove.env) := by
  rw [step, hreset]
  rfl

/-- HOST has no step while the port holds no complete command (60_exceptions.md R330). -/
theorem hostStep_of_not_ready {s : State} (hwaits : s.commandReady = false) : hostStep s = .next s := by
  simp only [hostStep, hwaits, Bool.not_false, if_true]

/-- Operand words still to come keep the port from being ready, whatever it holds. -/
theorem not_ready_of_cNeed_ne_zero {s : State} (hneed : s.port.cNeed ≠ 0) : s.commandReady = false := by
  rw [State.commandReady, beq_eq_false_iff_ne.2 hneed, Bool.and_false]

/-- A word that arrives while operand words are to come is one of them, whatever it says (10_state.md R47). -/
theorem receiveWord_operand {s : State} (hbuf : s.port.cBuf ≠ []) (hneed : s.port.cNeed ≠ 0) (w : Word) :
    s.receiveWord w = { s with port := { cBuf := s.port.cBuf ++ [w], cNeed := s.port.cNeed - 1 } } := by
  rcases receiveWord_cases s w with ⟨hempty, -⟩ | ⟨-, hzero, -⟩ | ⟨-, -, e⟩
  · exact absurd hempty hbuf
  · exact absurd hzero hneed
  · exact e

end Sys2Proof.Machine

namespace Sys2Proof.Proofs
open Sys2Proof.Machine

/-- Settles O14: the step is `resetWith` at the state's own CFG, and `resetWith_cleanReset` holds of every one. -/
theorem resetInput : Obligations.ResetInput := fun s hreset =>
  ⟨resetWith s.cfg s.takeMove.env, step_of_reset hreset, resetWith_cleanReset s.cfg s.takeMove.env, rfl⟩

/-- Settles O10: the port is not ready, so HOST has no step, and the arriving word is an operand. -/
theorem partialCommandHeld : Obligations.PartialCommandHeld := by
  intro s hbuf hneed
  refine ⟨hostStep_of_not_ready (not_ready_of_cNeed_ne_zero hneed), fun w => ?_⟩
  exact congrArg Host.Outcome.next (receiveWord_operand hbuf hneed w)

end Sys2Proof.Proofs
end
